-- ==== Sys2Proof/Word.lean ====
section
/-! DEFINITION. The machine's words: bytes, 16-bit words, the fields of an instruction word (R10, R11, R76). -/

namespace Sys2Proof

/-- A memory cell or a general register (R20, R50). -/
abbrev Byte := BitVec 8

/-- An instruction word, the program counter, the Index register, a stack entry (R24, R25, R28, R75). -/
abbrev Word := BitVec 16

/-- A register number: field `x` or `y` of an instruction word (R76, R79). -/
abbrev Reg := BitVec 4

/-- Field `n`: an immediate nibble (R76). -/
abbrev Nibble := BitVec 4

/-- Field `nnn`: a 12-bit address (R76). -/
abbrev Addr12 := BitVec 12

/-- `trunc_8(v) = v mod 256` (R11). -/
def trunc8 (v : Nat) : Byte := BitVec.ofNat 8 v

end Sys2Proof
end

