-- ==== Sys2Proof/Syntax.lean ====
section
/-! DEFINITION. The 34 instructions of rule R3, one constructor per row of spec/opcode_table.json, in the table's order. Each
carries the fields of its layout (R76, R89). A word that names none of them is `Op.unknown` of Sys2Proof/WellFormed.lean. -/

namespace Sys2Proof

/-- The instruction set (R3); the comment at each constructor is its pattern and its syntax of rule R90. -/
inductive Instr where
  /-- 00E0 `CLS` (R132). -/
  | cls
  /-- 00EE `RET` (R103). -/
  | ret
  /-- 1NNN `JP nnn` (R104). -/
  | jp (nnn : Addr12)
  /-- 2NNN `CALL nnn` (R105). -/
  | call (nnn : Addr12)
  /-- 3XKK `SE Vx, kk` (R107). -/
  | seImm (x : Reg) (kk : Byte)
  /-- 4XKK `SNE Vx, kk` (R108). -/
  | sneImm (x : Reg) (kk : Byte)
  /-- 5XY0 `SE Vx, Vy` (R109). -/
  | seReg (x y : Reg)
  /-- 6XKK `LD Vx, kk` (R113). -/
  | ldImm (x : Reg) (kk : Byte)
  /-- 7XKK `ADD Vx, kk` (R114). -/
  | addImm (x : Reg) (kk : Byte)
  /-- 8XY0 `LD Vx, Vy` (R115). -/
  | ldReg (x y : Reg)
  /-- 8XY1 `OR Vx, Vy` (R116). -/
  | orReg (x y : Reg)
  /-- 8XY2 `AND Vx, Vy` (R117). -/
  | andReg (x y : Reg)
  /-- 8XY3 `XOR Vx, Vy` (R118). -/
  | xorReg (x y : Reg)
  /-- 8XY4 `ADD Vx, Vy` (R119). -/
  | addReg (x y : Reg)
  /-- 8XY5 `SUB Vx, Vy` (R120). -/
  | subReg (x y : Reg)
  /-- 8XY6 `SHR Vx, Vy` (R121). -/
  | shr (x y : Reg)
  /-- 8XY7 `SUBN Vx, Vy` (R122). -/
  | subn (x y : Reg)
  /-- 8XYE `SHL Vx, Vy` (R123). -/
  | shl (x y : Reg)
  /-- 9XY0 `SNE Vx, Vy` (R110). -/
  | sneReg (x y : Reg)
  /-- ANNN `LD I, nnn` (R125). -/
  | ldI (nnn : Addr12)
  /-- BNNN `JP V0, nnn` (R106). -/
  | jpV0 (nnn : Addr12)
  /-- CXKK `RND Vx, kk` (R124). -/
  | rnd (x : Reg) (kk : Byte)
  /-- DXYN `DRW Vx, Vy, n` (R133). -/
  | drw (x y : Reg) (n : Nibble)
  /-- EX9E `SKP Vx` (R137). -/
  | skp (x : Reg)
  /-- EXA1 `SKNP Vx` (R138). -/
  | sknp (x : Reg)
  /-- FX07 `LD Vx, DT` (R141). -/
  | ldVxDt (x : Reg)
  /-- FX0A `LD Vx, K` (R139). -/
  | ldVxK (x : Reg)
  /-- FX15 `LD DT, Vx` (R142). -/
  | ldDtVx (x : Reg)
  /-- FX18 `LD ST, Vx` (R143). -/
  | ldStVx (x : Reg)
  /-- FX1E `ADD I, Vx` (R126). -/
  | addI (x : Reg)
  /-- FX29 `LD F, Vx` (R127). -/
  | ldF (x : Reg)
  /-- FX33 `LD B, Vx` (R128). -/
  | ldB (x : Reg)
  /-- FX55 `LD [I], Vx` (R129). -/
  | ldMemVx (x : Reg)
  /-- FX65 `LD Vx, [I]` (R130). -/
  | ldVxMem (x : Reg)
deriving DecidableEq, Repr

end Sys2Proof
end

