-- ==== Sys2Proof/WellFormed.lean ====
section
/-! DEFINITION. The decoder's output `Op` (R89) and its well-formedness: the one check a term can fail is that an `unknown`
descriptor carries a word that rule R85 really leaves unrecognized. -/

namespace Sys2Proof

/-- Every field of an instruction has exactly its width as its type (R76), so every term of `Instr` is an instruction: there
is nothing to check (log 20). -/
def Instr.wf (_ : Instr) : Bool := true

/-- The decoder's descriptor: an instruction of rule R3, or `Unknown(w)` (R77, R89). -/
inductive Op where
  | instr (i : Instr)
  | unknown (w : Word)
deriving DecidableEq, Repr

/-- The unrecognized words, set by set as the table of rule R85 lists them (R81 to R86). Written on the word as a number,
independently of the decoder. -/
def unrecognized (w : Word) : Bool :=
  let c := w.toNat / 0x1000
  let n := w.toNat % 0x10
  let kk := w.toNat % 0x100
  (c == 0x0 && w.toNat != 0x00E0 && w.toNat != 0x00EE) ||
  (c == 0x5 && n != 0) ||
  (c == 0x8 && (n == 0x8 || n == 0x9 || n == 0xA || n == 0xB || n == 0xC || n == 0xD || n == 0xF)) ||
  (c == 0x9 && n != 0) ||
  (c == 0xE && kk != 0x9E && kk != 0xA1) ||
  (c == 0xF && kk != 0x07 && kk != 0x0A && kk != 0x15 && kk != 0x18 && kk != 0x1E && kk != 0x29 && kk != 0x33 &&
    kk != 0x55 && kk != 0x65)

/-- A descriptor is well formed when it is an instruction, or an `unknown` of a word rule R85 lists. -/
def Op.wf : Op → Bool
  | .instr i => i.wf
  | .unknown w => unrecognized w

end Sys2Proof
end

