-- ==== Sys2Proof/Decode.lean ====
section
/-! DEFINITION. The decoder (R76 to R86), total on every word; the reading of a word from bytes, high byte first (R58, R75);
then the encoder, written from the same encoding table. -/

namespace Sys2Proof

/-- Field c = w[15:12], the instruction class (R76). -/
def fieldC (w : Word) : BitVec 4 := w.extractLsb' 12 4

/-- Field x = w[11:8] (R76). -/
def fieldX (w : Word) : Reg := w.extractLsb' 8 4

/-- Field y = w[7:4] (R76). -/
def fieldY (w : Word) : Reg := w.extractLsb' 4 4

/-- Field n = w[3:0] (R76). -/
def fieldN (w : Word) : Nibble := w.extractLsb' 0 4

/-- Field kk = w[7:0] (R76). -/
def fieldKK (w : Word) : Byte := w.extractLsb' 0 8

/-- Field nnn = w[11:0] (R76). -/
def fieldNNN (w : Word) : Addr12 := w.extractLsb' 0 12

/-- Class 0: the two fixed words, matched on all 16 bits (R81). -/
def decode0 (w : Word) : Op :=
  if w = 0x00E0#16 then .instr .cls
  else if w = 0x00EE#16 then .instr .ret
  else .unknown w

/-- Class 5: recognized only with n = 0 (R86). -/
def decode5 (w : Word) : Op :=
  if fieldN w = 0x0#4 then .instr (.seReg (fieldX w) (fieldY w)) else .unknown w

/-- Class 8, selected by n (R82). -/
def decode8 (w : Word) : Op :=
  match (fieldN w).toNat with
  | 0x0 => .instr (.ldReg (fieldX w) (fieldY w))
  | 0x1 => .instr (.orReg (fieldX w) (fieldY w))
  | 0x2 => .instr (.andReg (fieldX w) (fieldY w))
  | 0x3 => .instr (.xorReg (fieldX w) (fieldY w))
  | 0x4 => .instr (.addReg (fieldX w) (fieldY w))
  | 0x5 => .instr (.subReg (fieldX w) (fieldY w))
  | 0x6 => .instr (.shr (fieldX w) (fieldY w))
  | 0x7 => .instr (.subn (fieldX w) (fieldY w))
  | 0xE => .instr (.shl (fieldX w) (fieldY w))
  | _ => .unknown w

/-- Class 9: recognized only with n = 0 (R86). -/
def decode9 (w : Word) : Op :=
  if fieldN w = 0x0#4 then .instr (.sneReg (fieldX w) (fieldY w)) else .unknown w

/-- Class E, selected by kk (R83). -/
def decodeE (w : Word) : Op :=
  if fieldKK w = 0x9E#8 then .instr (.skp (fieldX w))
  else if fieldKK w = 0xA1#8 then .instr (.sknp (fieldX w))
  else .unknown w

/-- Class F, selected by kk (R84). -/
def decodeF (w : Word) : Op :=
  if fieldKK w = 0x07#8 then .instr (.ldVxDt (fieldX w))
  else if fieldKK w = 0x0A#8 then .instr (.ldVxK (fieldX w))
  else if fieldKK w = 0x15#8 then .instr (.ldDtVx (fieldX w))
  else if fieldKK w = 0x18#8 then .instr (.ldStVx (fieldX w))
  else if fieldKK w = 0x1E#8 then .instr (.addI (fieldX w))
  else if fieldKK w = 0x29#8 then .instr (.ldF (fieldX w))
  else if fieldKK w = 0x33#8 then .instr (.ldB (fieldX w))
  else if fieldKK w = 0x55#8 then .instr (.ldMemVx (fieldX w))
  else if fieldKK w = 0x65#8 then .instr (.ldVxMem (fieldX w))
  else .unknown w

/-- `Decode(w)` (R77, R96): total; the class selects the row (R80). The last arm is class 0xF, the one class left. -/
def decode (w : Word) : Op :=
  match (fieldC w).toNat with
  | 0x0 => decode0 w
  | 0x1 => .instr (.jp (fieldNNN w))
  | 0x2 => .instr (.call (fieldNNN w))
  | 0x3 => .instr (.seImm (fieldX w) (fieldKK w))
  | 0x4 => .instr (.sneImm (fieldX w) (fieldKK w))
  | 0x5 => decode5 w
  | 0x6 => .instr (.ldImm (fieldX w) (fieldKK w))
  | 0x7 => .instr (.addImm (fieldX w) (fieldKK w))
  | 0x8 => decode8 w
  | 0x9 => decode9 w
  | 0xA => .instr (.ldI (fieldNNN w))
  | 0xB => .instr (.jpV0 (fieldNNN w))
  | 0xC => .instr (.rnd (fieldX w) (fieldKK w))
  | 0xD => .instr (.drw (fieldX w) (fieldY w) (fieldN w))
  | 0xE => decodeE w
  | _ => decodeF w

/-- Two bytes as a word, the first in bits 15 to 8 (R58). -/
def wordOfBytes (hi lo : Byte) : Word := hi ++ lo

/-- The bytes of a word, lowest address first (R58, R75). -/
def bytesOfWord (w : Word) : Byte × Byte := (w.extractLsb' 8 8, w.extractLsb' 0 8)

/-- The outcomes of decoding a list of bytes: a descriptor with the bytes after it, or a list too short to hold a word.
`truncated` never arises in the machine, whose fetch always has two bytes (R58); it is the decoder's rejection by name. -/
inductive Decoded where
  | op (o : Op) (rest : List Byte)
  | truncated
deriving DecidableEq, Repr

/-- Decoding from bytes, total on every list (R58, R75, R77). -/
def decodeBytes : List Byte → Decoded
  | hi :: lo :: rest => .op (decode (wordOfBytes hi lo)) rest
  | _ => .truncated

/-- The instruction of a descriptor; an unrecognized word is none (R85). -/
def Op.instr? : Op → Option Instr
  | .instr i => some i
  | .unknown _ => none

/-- The word the opcode table's numbering gives: its low `nbits` bits, at most 16, since every instruction is one word (R75). -/
def tableWord (nbits w : Nat) : Word := BitVec.ofNat 16 (w % 2 ^ nbits)

/-- The instruction the decoder reads from an opcode-table word, laid out high byte first as the hardware stores it (R75). -/
def decodeTableWord (nbits w : Nat) : Option Instr :=
  match decodeBytes [(bytesOfWord (tableWord nbits w)).1, (bytesOfWord (tableWord nbits w)).2] with
  | .op o _ => o.instr?
  | .truncated => none

/-- Layout NNN (R76). -/
def encNNN (c : BitVec 4) (nnn : Addr12) : Word := c ++ nnn

/-- Layouts XKK and X (R76). -/
def encXKK (c : BitVec 4) (x : Reg) (kk : Byte) : Word := c ++ x ++ kk

/-- Layout XYN (R76). -/
def encXYN (c : BitVec 4) (x y : Reg) (n : Nibble) : Word := c ++ x ++ y ++ n

/-- The word of an instruction (R75, R76, R80 to R84, R86; opcode_table.json). -/
def encode : Instr → Word
  | .cls => 0x00E0#16
  | .ret => 0x00EE#16
  | .jp nnn => encNNN 0x1#4 nnn
  | .call nnn => encNNN 0x2#4 nnn
  | .seImm x kk => encXKK 0x3#4 x kk
  | .sneImm x kk => encXKK 0x4#4 x kk
  | .seReg x y => encXYN 0x5#4 x y 0x0#4
  | .ldImm x kk => encXKK 0x6#4 x kk
  | .addImm x kk => encXKK 0x7#4 x kk
  | .ldReg x y => encXYN 0x8#4 x y 0x0#4
  | .orReg x y => encXYN 0x8#4 x y 0x1#4
  | .andReg x y => encXYN 0x8#4 x y 0x2#4
  | .xorReg x y => encXYN 0x8#4 x y 0x3#4
  | .addReg x y => encXYN 0x8#4 x y 0x4#4
  | .subReg x y => encXYN 0x8#4 x y 0x5#4
  | .shr x y => encXYN 0x8#4 x y 0x6#4
  | .subn x y => encXYN 0x8#4 x y 0x7#4
  | .shl x y => encXYN 0x8#4 x y 0xE#4
  | .sneReg x y => encXYN 0x9#4 x y 0x0#4
  | .ldI nnn => encNNN 0xA#4 nnn
  | .jpV0 nnn => encNNN 0xB#4 nnn
  | .rnd x kk => encXKK 0xC#4 x kk
  | .drw x y n => encXYN 0xD#4 x y n
  | .skp x => encXKK 0xE#4 x 0x9E#8
  | .sknp x => encXKK 0xE#4 x 0xA1#8
  | .ldVxDt x => encXKK 0xF#4 x 0x07#8
  | .ldVxK x => encXKK 0xF#4 x 0x0A#8
  | .ldDtVx x => encXKK 0xF#4 x 0x15#8
  | .ldStVx x => encXKK 0xF#4 x 0x18#8
  | .addI x => encXKK 0xF#4 x 0x1E#8
  | .ldF x => encXKK 0xF#4 x 0x29#8
  | .ldB x => encXKK 0xF#4 x 0x33#8
  | .ldMemVx x => encXKK 0xF#4 x 0x55#8
  | .ldVxMem x => encXKK 0xF#4 x 0x65#8

/-- The word of a descriptor: an instruction's, or the unrecognized word itself (`DW`, R90). -/
def encodeOp : Op → Word
  | .instr i => encode i
  | .unknown w => w

end Sys2Proof
end

