-- ==== Sys2Proof/Config.lean ====
section
/-! DEFINITION. What an implementation fixes (the parameters of rule R9) and the free value the spec leaves open (RAND, D17).
The default values stand in Sys2Proof/Machine/Defaults.lean. -/

namespace Sys2Proof

/-- `OOB_POLICY` (R9, D1): what `Addr` does above 0xFFF after raising OutOfBoundsAddress (R56). -/
inductive OobPolicy where
  | wrap
  | fault
deriving DecidableEq, Repr

/-- `STACK_POLICY` (R9, D3): what follows StackOverflow and StackUnderflow (R31, R32). -/
inductive StackPolicy where
  | clamp
  | fault
deriving DecidableEq, Repr

/-- `SHIFT_SOURCE` (R9, D5): the register 8XY6 and 8XYE shift (R121, R123). -/
inductive ShiftSource where
  | vx
  | vy
deriving DecidableEq, Repr

/-- `KEY_INDEX_POLICY` (R9, D12): the key a register value above 0xF names (R136). -/
inductive KeyIndexPolicy where
  | notPressed
  | lowNibble
deriving DecidableEq, Repr

/-- The parameters of rule R9. `instrRate` and `frameRate` are timing only (R164). RAND is `Config.randByte`. -/
structure Params where
  oobPolicy : OobPolicy
  stackPolicy : StackPolicy
  shiftSource : ShiftSource
  keyIndexPolicy : KeyIndexPolicy
  freezeFrameDuringWait : Bool
  font : Vector Byte 80
  instrRate : Nat
  frameRate : Nat
deriving DecidableEq, Repr

/-- FREE VALUE (R9 `RAND`, R124, D17, U8): the byte of the oracle's draw number `k`. It has no body, so nothing can be proved
about it and a claim holds for every generator (log 4). -/
opaque Config.randByte : Nat → Byte

end Sys2Proof
end

