-- ==== Sys2Proof/Machine/Defaults.lean ====
section
/-! DEFINITION. The default values of the parameters of rule R9, and the fixed numbers of rules R8, R43 and R52. -/

namespace Sys2Proof.Machine

/-- The default `FONT`: the 16 glyphs of 5 bytes of rule R62, glyph 0 first. PRESUMED: the spec takes the bytes from general
knowledge (D11, G1); log 2. -/
def defaultFont : Vector Byte 80 := #v[
  0xF0, 0x90, 0x90, 0x90, 0xF0,
  0x20, 0x60, 0x20, 0x20, 0x70,
  0xF0, 0x10, 0xF0, 0x80, 0xF0,
  0xF0, 0x10, 0xF0, 0x10, 0xF0,
  0x90, 0x90, 0xF0, 0x10, 0x10,
  0xF0, 0x80, 0xF0, 0x10, 0xF0,
  0xF0, 0x80, 0xF0, 0x90, 0xF0,
  0xF0, 0x10, 0x20, 0x40, 0x40,
  0xF0, 0x90, 0xF0, 0x90, 0xF0,
  0xF0, 0x90, 0xF0, 0x10, 0xF0,
  0xF0, 0x90, 0xF0, 0x90, 0x90,
  0xE0, 0x90, 0xE0, 0x90, 0xE0,
  0xF0, 0x80, 0x80, 0x80, 0xF0,
  0xE0, 0x90, 0x90, 0x90, 0xE0,
  0xF0, 0x80, 0xF0, 0x80, 0xF0,
  0xF0, 0x80, 0xF0, 0x80, 0x80]

/-- The defaults of rule R9: the spec's own choices (D1, D3, D5, D11, D12, D14, D15). -/
def defaultParams : Params where
  oobPolicy := .wrap
  stackPolicy := .clamp
  shiftSource := .vx
  keyIndexPolicy := .notPressed
  freezeFrameDuringWait := false
  font := defaultFont
  instrRate := 700
  frameRate := 60

/-- PC at reset (R8, R43, R52). -/
def resetPc : Word := 0x200#16

/-- Where the program image is loaded (R8, R55). -/
def programBase : Nat := 0x200

/-- The longest image the load accepts: 4096 − 512 (R8, R147). -/
def programMax : Nat := 4096 - 512

/-- Where the font table lies (R8, R54). -/
def fontBase : Nat := 0x050

end Sys2Proof.Machine
end

