-- ==== Sys2Proof/Machine/State.lean ====
section
/-! DEFINITION. The machine's state as plain data (R19), the reasons a step can stop, and the state after reset (R43). -/

namespace Sys2Proof.Machine

/-- Memory (R50): the cells that differ from what an unlisted address reads as (`resetByte`), addresses rising. -/
abbrev Memory := List Host.Cell

/-- The display buffer FB (R36): 32 rows of 64 pixels; bit `c` of row `r` is `FB[r][c]`. -/
abbrev Frame := Vector (BitVec 64) 32

/-- The input latch KEY (R37). -/
abbrev Keys := Vector Bool 16

/-- The execution state RUN (R38). -/
inductive Run where
  | running
  | waitKey (x : Reg)
deriving DecidableEq, Repr

/-- A raised condition with the information it records (R47, R145). Codes and names are `Event.code` and `Event.name`. -/
inductive Event where
  /-- Load of an empty image (R146). -/
  | programEmpty
  /-- Load of an image of `length` bytes, more than 3584 (R147). -/
  | programTooLarge (length : Nat)
  /-- 2NNN at address `a` with SP = 16 (R148). -/
  | stackOverflow (a : Nat)
  /-- 00EE at address `a` with SP = 0 (R149). -/
  | stackUnderflow (a : Nat)
  /-- An unrecognized word `w` at address `a` (R150). -/
  | unknownOpcode (a : Nat) (w : Word)
  /-- `Addr(e)` with e > 0xFFF in the instruction at address `a` (R151). -/
  | outOfBoundsAddress (e : Nat) (a : Nat)
deriving DecidableEq, Repr

/-- What moves next, between slots: the input ports of rule R46 and the Scheduler's activities of rule R158. A list of these
is any run the Scheduler admits (log 5). -/
inductive HostAct where
  /-- The `reset` strobe (R170). -/
  | reset
  /-- The `load` port (R173 to R175). -/
  | load (image : List Byte)
  /-- The start of an iteration: a poll of the `keys` and `quit` ports, and the wall-clock delta `dt` in units of
  1/(INSTR_RATE·FRAME_RATE) s (R158, R159, R165; log 6). -/
  | poll (keys : Keys) (quit : Bool) (dt : Nat)
  /-- An instruction slot (R93, R160). -/
  | slot
  /-- A frame tick (R161). -/
  | frameTick
deriving DecidableEq, Repr

/-- The state tuple of rule R19, the outputs of rules R47 and R48, the parameters of rule R9, and the model's own `script`
and `draws`. INVENTORY.md lists every field with its rule and its reset value. -/
structure State where
  /-- The parameters of rule R9; no step writes them (log 1). -/
  params : Params
  /-- M (R50). -/
  mem : Memory
  /-- V0 to VF (R20). -/
  v : Vector Byte 16
  /-- The Index register I (R24). -/
  index : Word
  /-- The program counter PC (R25). -/
  pc : Word
  /-- The stack memory S (R28). -/
  stack : Vector Word 16
  /-- The stack pointer SP: how many entries are in use, 0 to 16 (R29). -/
  sp : Fin 17
  /-- The delay timer DT (R33). -/
  dt : Byte
  /-- The sound timer ST (R34). -/
  st : Byte
  /-- The display buffer FB (R36). -/
  fb : Frame
  /-- The input latch KEY (R37). -/
  key : Keys
  /-- The execution state RUN (R38). -/
  run : Run
  /-- SCH: the accumulator of the instruction rate (R41, R158; log 6). -/
  accI : Nat
  /-- SCH: the accumulator of the frame rate (R41, R158; log 6). -/
  accF : Nat
  /-- The Scheduler has stopped: a poll sampled `quit` (R165; log 7). -/
  stopped : Bool
  /-- A program load is still admitted: no slot and no accepted load since reset (R175; log 8). -/
  loadOpen : Bool
  /-- MODEL'S OWN: what the host does next, oldest first; when it is empty, instruction slots follow (log 5). -/
  script : List HostAct
  /-- MODEL'S OWN: how many bytes the RAND oracle has given (log 4). -/
  draws : Nat
  /-- The diagnostic output so far, oldest first (R47; log 10). -/
  diag : List Event
  /-- How many redraw strobes the display output has raised (R48; log 10). -/
  redraws : Nat
  /-- The display buffer snapshot the last redraw signalled (R135; log 10). -/
  shown : Frame
deriving DecidableEq, Repr

/-- The fault outcome (R15, R152, U3): only under a `Fault` policy value (R9). It records the condition, its information and
the state at the start of the slot; the machine takes no further step. Safe: the CORE itself reports the condition and goes
on, so a fault only makes a program's claim unprovable (D1, D3). -/
inductive Fault where
  /-- Raised by `Addr(e)` with e > 0xFFF under `OOB_POLICY = Fault` (R56, R151), by the fetch, the advance, a skip, BNNN, FX1E,
  DXYN, FX33, FX55 and FX65. Safe. -/
  | outOfBoundsAddress (e : Nat) (a : Nat) (start : State)
  /-- Raised by 2NNN with SP = 16 under `STACK_POLICY = Fault` (R31, R148). Safe. -/
  | stackOverflow (a : Nat) (start : State)
  /-- Raised by 00EE with SP = 0 under `STACK_POLICY = Fault` (R32, R149). Safe. -/
  | stackUnderflow (a : Nat) (start : State)
deriving DecidableEq, Repr

/-- The refusals. No instruction is refused (R15, R77). -/
inductive Refusal where
  /-- Raised by an arm of `exec` whose instruction has no meaning yet: no arm is. Safe. -/
  | notModelled (mnemonic : String)
  /-- Raised by the host action `load` once a load was accepted or a slot has run (R175, U15): the spec does not admit the
  action. Safe. -/
  | loadNotAdmitted
deriving DecidableEq, Repr

/-- What a meaning, a slot or a step answers. -/
abbrev Result := Host.Outcome State Fault Refusal

/-- The machine right after reset (R43, R170 to R172). Memory lists nothing: an unlisted address reads as its reset contents
(`resetByte`: the font table and zeros). The parameters are the defaults of rule R9; the outputs, `script` and `draws`
start empty (logs 4, 5, 10). -/
def State.reset : State where
  params := defaultParams
  mem := []
  v := Vector.replicate 16 0#8
  index := 0#16
  pc := resetPc
  stack := Vector.replicate 16 0#16
  sp := 0
  dt := 0#8
  st := 0#8
  fb := Vector.replicate 32 0#64
  key := Vector.replicate 16 false
  run := .running
  accI := 0
  accF := 0
  stopped := false
  loadOpen := true
  script := []
  draws := 0
  diag := []
  redraws := 0
  shown := Vector.replicate 32 0#64

end Sys2Proof.Machine
end

