-- ==== Sys2Proof/Machine/Ops.lean ====
section
/-! DEFINITION. The named operations over memory, registers, stack, display buffer, input latch and outputs, and the one
operation that raises a condition and forms an address (R13, R14, R31, R32, R56, R57, R131). There is no trap entry and no
trap return (R154, R155): raising a condition is a report, or the fault outcome under a `Fault` policy. -/

namespace Sys2Proof.Machine

/-! ## Memory -/

/-- What an address nothing has written reads as: the font table at 0x050 to 0x09F, 0 elsewhere (R43, R54, R172). -/
def resetByte (p : Params) (a : Nat) : Byte :=
  if fontBase ≤ a then (p.font[a - fontBase]?).getD 0#8 else 0#8

/-- The listed value of an address. -/
def Memory.lookup : Memory → Nat → Option Byte
  | [], _ => none
  | (b, v) :: m, a => if a = b then some v else Memory.lookup m a

/-- The list with `a` holding `v`, addresses kept rising. -/
def Memory.insert (a : Nat) (v : Byte) : Memory → Memory
  | [] => [(a, v)]
  | (b, w) :: m => if a < b then (a, v) :: (b, w) :: m else if a = b then (a, v) :: m else (b, w) :: Memory.insert a v m

/-- `MemRead` on the list (R57). -/
def Memory.read (p : Params) (m : Memory) (a : Nat) : Byte :=
  (Memory.lookup m a).getD (resetByte p a)

/-- `MemWrite` on the list (R57): writing the reset contents of an address unlists it, so equal memories are equal lists. -/
def Memory.write (p : Params) (a : Nat) (v : Byte) (m : Memory) : Memory :=
  if v = resetByte p a then m.filter (fun c => c.1 ≠ a) else Memory.insert a v m

/-- The bytes at `a`, `a + 1`, … (R55, R173). The last byte is written first; the order is not observable. -/
def Memory.writeBytes (p : Params) (a : Nat) : List Byte → Memory → Memory
  | [], m => m
  | b :: bs, m => Memory.write p a b (Memory.writeBytes p (a + 1) bs m)

/-- The canonical form: addresses strictly rising, all below 0x1000 (R50), none listed with its reset contents. -/
abbrev Memory.wf (p : Params) (m : Memory) : Prop :=
  m.Pairwise (fun c d => c.1 < d.1) ∧ ∀ c ∈ m, c.1 < 0x1000 ∧ c.2 ≠ resetByte p c.1

/-- `MemRead(a, 1)` (R13, R57). -/
def State.readByte (s : State) (a : Nat) : Byte := Memory.read s.params s.mem a

/-- `MemWrite(a, 1, v)` (R13, R57). -/
def State.writeByte (s : State) (a : Nat) (v : Byte) : State := { s with mem := Memory.write s.params a v s.mem }

/-! ## Registers -/

/-- `V[x]` (R12, R20). -/
def State.reg (s : State) (x : Reg) : Byte := s.v[x.toNat]'x.isLt

/-- `V[x] <- b` (R12, R20). -/
def State.setReg (s : State) (x : Reg) (b : Byte) : State := { s with v := s.v.set x.toNat b x.isLt }

/-- `I <- e` for a value already below 0x1000 (R24). -/
def State.setIndex (s : State) (e : Nat) : State := { s with index := BitVec.ofNat 16 e }

/-- `PC <- e` for a value already below 0x1000 (R26). -/
def State.setPc (s : State) (e : Nat) : State := { s with pc := BitVec.ofNat 16 e }

/-- `DT <- b` (R33). -/
def State.setDt (s : State) (b : Byte) : State := { s with dt := b }

/-- `ST <- b` (R34). -/
def State.setSt (s : State) (b : Byte) : State := { s with st := b }

/-- `RUN <- r` (R38). -/
def State.setRun (s : State) (r : Run) : State := { s with run := r }

/-- `FB <- fb` (R36). -/
def State.setFb (s : State) (fb : Frame) : State := { s with fb := fb }

/-! ## Display buffer -/

/-- `Get(r, c)` (R131). -/
def Frame.get (fb : Frame) (r c : Nat) : Bool := if h : r < 32 then (fb[r]'h).getLsbD c else false

/-- The write half of `Xor(r, c)`: `FB[r][c] <- FB[r][c] XOR 1` (R131). The old value it returns is `Frame.get`. -/
def Frame.xorPixel (fb : Frame) (r c : Nat) : Frame :=
  if h : r < 32 then fb.set r (fb[r]'h ^^^ BitVec.twoPow 64 c) h else fb

/-- `Clear()` (R131). -/
def Frame.clear : Frame := Vector.replicate 32 0#64

/-- The display output: 2048 bits in row-major order, pixel (r, c) at r·64 + c (R48, R134). -/
def State.displayOut (s : State) : List Bool :=
  (List.range 32).flatMap fun r => (List.range 64).map fun c => Frame.get s.fb r c

/-! ## Input latch and sound output -/

/-- `KEY[k]` (R12, R37); there is no key above 0xF. -/
def State.keyDown (s : State) (k : Nat) : Bool := if h : k < 16 then s.key[k]'h else false

/-- `min { k | KEY[k] }`, if any key is pressed (R139, R140). -/
def State.lowestKey (s : State) : Option Nat := (List.range 16).find? s.keyDown

/-- The sound output `sound_active = (ST != 0)` (R49). -/
def State.soundActive (s : State) : Bool := s.st != 0#8

/-! ## The RAND oracle -/

/-- The byte the next draw gives: a free value (R124, D17; log 4). -/
def State.nextRandom (s : State) : Byte := Config.randByte s.draws

/-- The oracle after a draw: the next draw is another free value (R124; log 4). -/
def State.takeDraw (s : State) : State := { s with draws := s.draws + 1 }

/-! ## Conditions -/

/-- The code of a condition (R145). -/
def Event.code : Event → Nat
  | .programEmpty => 1
  | .programTooLarge _ => 2
  | .stackOverflow _ => 3
  | .stackUnderflow _ => 4
  | .unknownOpcode _ _ => 5
  | .outOfBoundsAddress _ _ => 6

/-- The name of a condition (R145). -/
def Event.name : Event → String
  | .programEmpty => "ProgramEmpty"
  | .programTooLarge _ => "ProgramTooLarge"
  | .stackOverflow _ => "StackOverflow"
  | .stackUnderflow _ => "StackUnderflow"
  | .unknownOpcode _ _ => "UnknownOpcode"
  | .outOfBoundsAddress _ _ => "OutOfBoundsAddress"

/-- A report on the diagnostic output (R14, R47); it changes nothing else. -/
def State.report (s : State) (e : Event) : State := { s with diag := s.diag ++ [e] }

/-- The address `a` of the instruction under execution, from PC = Addr(a + 2) (R18, R95): `(PC − 2) mod 0x1000`. It is read on
the state a meaning starts from, before the meaning writes PC. DEDUCED; log 11. -/
def State.instrAddr (s : State) : Nat := (s.pc.toNat + 0xFFE) % 0x1000

/-- `Addr(e)` (R56), then the rest `k` of the rule on the address formed and the state: below 0x1000 nothing is raised; above,
OutOfBoundsAddress is raised for the instruction at `a`, and by `OOB_POLICY` the value is reduced or the slot ends in the
fault outcome, which records `start` (R14, R74, R151, R152). -/
def formAddrAt (a : Nat) (start : State) (e : Nat) (s : State) (k : Nat → State → Result) : Result :=
  if e ≤ 0xFFF then k e s
  else match s.params.oobPolicy with
    | .wrap => k (e % 0x1000) (s.report (.outOfBoundsAddress e a))
    | .fault => .fault (.outOfBoundsAddress e a start)

/-- `Addr(e)` within the meaning that started from `start`. -/
def formAddr (start : State) (e : Nat) (s : State) (k : Nat → State → Result) : Result :=
  formAddrAt start.instrAddr start e s k

/-- A fault with the state at the start of the slot put in place of the one it recorded (R152). -/
def Fault.withStart (start : State) : Fault → Fault
  | .outOfBoundsAddress e a _ => .outOfBoundsAddress e a start
  | .stackOverflow a _ => .stackOverflow a start
  | .stackUnderflow a _ => .stackUnderflow a start

/-- A slot's outcome: a meaning's fault is recorded with the state at the start of the slot (R152; log 12). -/
def recordStart (start : State) : Result → Result
  | .next t => .next t
  | .fault f => .fault (f.withStart start)
  | .refused r => .refused r

/-! ## The stack -/

/-- The store half of a push that fits: `S[SP] <- v; SP <- SP + 1` (R31). -/
def State.pushEntry (s : State) (v : Word) (h : s.sp.val < 16) : State :=
  { s with stack := s.stack.set s.sp.val v h, sp := ⟨s.sp.val + 1, Nat.succ_lt_succ h⟩ }

/-- The entry a pop returns: `S[SP − 1]` (R32). -/
def State.topEntry (s : State) : Word := (s.stack[s.sp.val - 1]?).getD 0#16

/-- The stack after a pop: `SP <- SP − 1`; the entry keeps its value (R32). -/
def State.popEntry (s : State) : State :=
  { s with sp := ⟨s.sp.val - 1, Nat.lt_of_le_of_lt (Nat.sub_le _ _) s.sp.isLt⟩ }

/-- `Push(v)` (R31): `ok` is the rest of the rule on Ok; on Overflow the stack is unchanged and `overflow` follows the report. -/
def push (start : State) (v : Word) (s : State) (ok overflow : State → Result) : Result :=
  if h : s.sp.val < 16 then ok (s.pushEntry v h)
  else match s.params.stackPolicy with
    | .clamp => overflow (s.report (.stackOverflow start.instrAddr))
    | .fault => .fault (.stackOverflow start.instrAddr start)

/-- `Pop()` (R32): `ok` is the rest of the rule on Ok(v); on Underflow the stack is unchanged and `underflow` follows the
report. -/
def pop (start : State) (s : State) (ok : Word → State → Result) (underflow : State → Result) : Result :=
  if s.sp.val = 0 then
    match s.params.stackPolicy with
    | .clamp => underflow (s.report (.stackUnderflow start.instrAddr))
    | .fault => .fault (.stackUnderflow start.instrAddr start)
  else ok s.topEntry s.popEntry

end Sys2Proof.Machine
end

