-- ==== Sys2Proof/Machine/Operands.lean ====
section
/-! DEFINITION. The operand forms: the shift source (R121, R123), the key a register names (R136), the sprite origin (R133),
and the blocks of memory an instruction names by `I + k` (R60). The forms VX, VY are `State.reg`; kk, nnn and n are the
instruction's own fields (R78, R79). -/

namespace Sys2Proof.Machine

/-- The flag register VF (R21). -/
def vF : Reg := 0xF#4

/-- The register 8XY6 and 8XYE shift: VX or VY, by `SHIFT_SOURCE` (R121, R123, D5). -/
def State.shiftOperand (s : State) (x y : Reg) : Byte :=
  match s.params.shiftSource with
  | .vx => s.reg x
  | .vy => s.reg y

/-- `Pressed(v)` (R136): a value above 0xF names no key, or the key of its low nibble, by `KEY_INDEX_POLICY` (D12). -/
def State.pressed (s : State) (v : Byte) : Bool :=
  if v.toNat ≤ 0xF then s.keyDown v.toNat
  else match s.params.keyIndexPolicy with
    | .notPressed => false
    | .lowNibble => s.keyDown (v.toNat % 0x10)

/-- The sprite's column of origin: `V[x] mod 64` (R133). -/
def State.originCol (s : State) (x : Reg) : Nat := (s.reg x).toNat % 64

/-- The sprite's row of origin: `V[y] mod 32` (R133). -/
def State.originRow (s : State) (y : Reg) : Nat := (s.reg y).toNat % 32

/-- The bytes at `Addr(base + k)` for the offsets `k` of a list, in order (R60, R73), then the rest of the rule. -/
def readBlock (start : State) (base : Nat) : List Nat → State → (List Byte → State → Result) → Result
  | [], s, rest => rest [] s
  | k :: ks, s, rest =>
    formAddr start (base + k) s fun a s1 =>
      readBlock start base ks s1 fun bs s2 => rest (s1.readByte a :: bs) s2

/-- `MemWrite(Addr(base + k), 1, b)` for a list of pairs of an offset `k` and a byte `b`, in order (R60, R73). -/
def writeBlock (start : State) (base : Nat) : List (Nat × Byte) → State → Result
  | [], s => .next s
  | (k, b) :: kbs, s => formAddr start (base + k) s fun a s1 => writeBlock start base kbs (s1.writeByte a b)

/-- `V[k] <- b` for the bytes of a list, from register `k` on (R130). -/
def State.setRegsFrom (s : State) : Nat → List Byte → State
  | _, [] => s
  | k, b :: bs => State.setRegsFrom (s.setReg (BitVec.ofNat 4 k) b) (k + 1) bs

/-- The BCD digits of a byte with the offsets they are stored at: hundreds, tens, ones (R128). -/
def bcdDigits (v : Byte) : List (Nat × Byte) :=
  [(0, trunc8 (v.toNat / 100)), (1, trunc8 (v.toNat / 10 % 10)), (2, trunc8 (v.toNat % 10))]

/-- The registers V0 to VX with the offsets they are stored at (R79, R129). -/
def State.regBlock (s : State) (x : Reg) : List (Nat × Byte) :=
  (List.range (x.toNat + 1)).map fun k => (k, s.reg (BitVec.ofNat 4 k))

end Sys2Proof.Machine
end

