-- ==== Sys2Proof/Machine/Flags.lean ====
section
/-! DEFINITION. The one flag register VF and its values (R21, R39, R111, R112). -/

namespace Sys2Proof.Machine

/-- A flag as VF holds it: 1 or 0. -/
def flagByte (b : Bool) : Byte := if b then 1#8 else 0#8

/-- Carry of an addition: 1 iff the sum is above 255 (R111, R119). -/
def carryOut (a b : Byte) : Bool := decide (255 < a.toNat + b.toNat)

/-- NOT borrow of `minuend − subtrahend`: 1 iff minuend >= subtrahend (R111, R120, R122). -/
def notBorrow (minuend subtrahend : Byte) : Bool := decide (subtrahend.toNat ≤ minuend.toNat)

/-- The bit a right shift drops: old bit 0 (R121). -/
def shiftedOutRight (src : Byte) : Bool := src.getLsbD 0

/-- The bit a left shift drops: old bit 7 (R123). -/
def shiftedOutLeft (src : Byte) : Bool := src.getLsbD 7

/-- VX is written with the result, then VF with the flag, so that VF ends as the flag when x = F (R112). -/
def State.setResultAndFlag (s : State) (x : Reg) (result : Byte) (flag : Bool) : State :=
  (s.setReg x result).setReg vF (flagByte flag)

end Sys2Proof.Machine
end

