-- ==== Sys2Proof/Machine/Alu.lean ====
section
/-! DEFINITION. ALU and logic unit (spec/42_alu.md): 6XKK, 7XKK, 8XY0 to 8XYE, CXKK. PC stays Addr(a + 2). -/

namespace Sys2Proof.Machine

/-- 6XKK (R113). -/
def execLdImm (x : Reg) (kk : Byte) (s : State) : Result := .next (s.setReg x kk)

/-- 7XKK (R114): no flag. -/
def execAddImm (x : Reg) (kk : Byte) (s : State) : Result :=
  .next (s.setReg x (trunc8 ((s.reg x).toNat + kk.toNat)))

/-- 8XY0 (R115). -/
def execLdReg (x y : Reg) (s : State) : Result := .next (s.setReg x (s.reg y))

/-- 8XY1 (R116): no flag (D6). -/
def execOrReg (x y : Reg) (s : State) : Result := .next (s.setReg x (s.reg x ||| s.reg y))

/-- 8XY2 (R117): no flag (D6). -/
def execAndReg (x y : Reg) (s : State) : Result := .next (s.setReg x (s.reg x &&& s.reg y))

/-- 8XY3 (R118): no flag (D6). -/
def execXorReg (x y : Reg) (s : State) : Result := .next (s.setReg x (s.reg x ^^^ s.reg y))

/-- 8XY4 (R119): VF = carry. -/
def execAddReg (x y : Reg) (s : State) : Result :=
  .next (s.setResultAndFlag x (trunc8 ((s.reg x).toNat + (s.reg y).toNat)) (carryOut (s.reg x) (s.reg y)))

/-- 8XY5 (R120): VF = NOT borrow of VX − VY. -/
def execSubReg (x y : Reg) (s : State) : Result :=
  .next (s.setResultAndFlag x (s.reg x - s.reg y) (notBorrow (s.reg x) (s.reg y)))

/-- 8XY6 (R121): VF = old bit 0 of the source. -/
def execShr (x y : Reg) (s : State) : Result :=
  .next (s.setResultAndFlag x (s.shiftOperand x y >>> 1) (shiftedOutRight (s.shiftOperand x y)))

/-- 8XY7 (R122): VF = NOT borrow of VY − VX. -/
def execSubn (x y : Reg) (s : State) : Result :=
  .next (s.setResultAndFlag x (s.reg y - s.reg x) (notBorrow (s.reg y) (s.reg x)))

/-- 8XYE (R123): VF = old bit 7 of the source. -/
def execShl (x y : Reg) (s : State) : Result :=
  .next (s.setResultAndFlag x (s.shiftOperand x y <<< 1) (shiftedOutLeft (s.shiftOperand x y)))

/-- CXKK (R124): a free byte AND kk; the draw is always taken (log 4). -/
def execRnd (x : Reg) (kk : Byte) (s : State) : Result := .next (s.takeDraw.setReg x (s.nextRandom &&& kk))

end Sys2Proof.Machine
end

