-- ==== Sys2Proof/Machine/Control.lean ====
section
/-! DEFINITION. Control transfer (spec/41_control_flow.md): 00EE, 1NNN, 2NNN, BNNN and the skips. On entry PC = Addr(a + 2). -/

namespace Sys2Proof.Machine

/-- `Skip()`: `PC <- Addr(PC + 2)` (R102). -/
def skip (start : State) (s : State) : Result := formAddr start (s.pc.toNat + 2) s fun p s1 => .next (s1.setPc p)

/-- A skip taken or not. -/
def skipIf (c : Bool) (s : State) : Result := if c then skip s s else .next s

/-- 00EE (R103): return, or StackUnderflow and PC keeps Addr(a + 2). -/
def execRet (s : State) : Result := pop s s (fun v s1 => .next (s1.setPc v.toNat)) (fun s1 => .next s1)

/-- 1NNN (R104). -/
def execJp (nnn : Addr12) (s : State) : Result := .next (s.setPc nnn.toNat)

/-- 2NNN (R105): the already-advanced PC is pushed; on StackOverflow the call is not taken. -/
def execCall (nnn : Addr12) (s : State) : Result :=
  push s s.pc s (fun s1 => .next (s1.setPc nnn.toNat)) (fun s1 => .next s1)

/-- BNNN (R106): the register is V0, whatever bits 11 to 8 hold. -/
def execJpV0 (nnn : Addr12) (s : State) : Result :=
  formAddr s (nnn.toNat + (s.reg 0x0#4).toNat) s fun p s1 => .next (s1.setPc p)

/-- 3XKK (R107). -/
def execSeImm (x : Reg) (kk : Byte) (s : State) : Result := skipIf (s.reg x == kk) s

/-- 4XKK (R108). -/
def execSneImm (x : Reg) (kk : Byte) (s : State) : Result := skipIf (s.reg x != kk) s

/-- 5XY0 (R109). -/
def execSeReg (x y : Reg) (s : State) : Result := skipIf (s.reg x == s.reg y) s

/-- 9XY0 (R110). -/
def execSneReg (x y : Reg) (s : State) : Result := skipIf (s.reg x != s.reg y) s

end Sys2Proof.Machine
end

