-- ==== Sys2Proof/Machine/Display.lean ====
section
/-! DEFINITION. Display XOR-blit (spec/44_display.md): 00E0 and DXYN. PC stays Addr(a + 2). -/

namespace Sys2Proof.Machine

/-- 00E0 (R132). -/
def execCls (s : State) : Result := .next (s.setFb Frame.clear)

/-- The inner loop of DXYN over the bits `j` of one sprite row (R133): stops at the right edge; bit 7 − j is column ox + j. The
second component is the collision accumulator. -/
def drawBits (row ox : Nat) (b : Byte) : List Nat → Frame → Bool → Frame × Bool
  | [], fb, col => (fb, col)
  | j :: js, fb, col =>
    if 64 ≤ ox + j then (fb, col)
    else if b.getLsbD (7 - j) then
      drawBits row ox b js (Frame.xorPixel fb row (ox + j)) (col || Frame.get fb row (ox + j))
    else drawBits row ox b js fb col

/-- The outer loop of DXYN over the sprite's rows from row `row` on (R133): stops at the bottom edge. -/
def drawRows (ox : Nat) : Nat → List Byte → Frame → Bool → Frame × Bool
  | _, [], fb, col => (fb, col)
  | row, b :: bs, fb, col =>
    if 32 ≤ row then (fb, col)
    else
      let drawn := drawBits row ox b (List.range 8) fb col
      drawRows ox (row + 1) bs drawn.1 drawn.2

/-- DXYN (R133): the origin is read before any write, all n bytes are read, then the rows are drawn and VF is written once. -/
def execDrw (x y : Reg) (n : Nibble) (s : State) : Result :=
  readBlock s s.index.toNat (List.range n.toNat) s fun rows s1 =>
    let drawn := drawRows (s.originCol x) (s.originRow y) rows s1.fb false
    .next ((s1.setFb drawn.1).setReg vF (flagByte drawn.2))

end Sys2Proof.Machine
end

