-- ==== Sys2Proof/Machine/Index.lean ====
section
/-! DEFINITION. Index register and memory block transfers (spec/43_index_memory.md): ANNN, FX1E, FX29, FX33, FX55, FX65.
PC stays Addr(a + 2). -/

namespace Sys2Proof.Machine

/-- ANNN (R125). -/
def execLdI (nnn : Addr12) (s : State) : Result := .next (s.setIndex nnn.toNat)

/-- FX1E (R126): `I <- Addr(I + V[x])`, no flag (D8). -/
def execAddI (x : Reg) (s : State) : Result :=
  formAddr s (s.index.toNat + (s.reg x).toNat) s fun e s1 => .next (s1.setIndex e)

/-- FX29 (R127): `I <- 0x050 + 5·V[x]`, the full 8-bit V[x]. -/
def execLdF (x : Reg) (s : State) : Result := .next (s.setIndex (fontBase + 5 * (s.reg x).toNat))

/-- FX33 (R128): hundreds, tens, ones at I, I + 1, I + 2. -/
def execLdB (x : Reg) (s : State) : Result := writeBlock s s.index.toNat (bcdDigits (s.reg x)) s

/-- FX55 (R129): V0 to VX at I, I + 1, …; I unchanged (D7). -/
def execLdMemVx (x : Reg) (s : State) : Result := writeBlock s s.index.toNat (s.regBlock x) s

/-- FX65 (R130): V0 to VX from I, I + 1, …; I unchanged (D7). -/
def execLdVxMem (x : Reg) (s : State) : Result :=
  readBlock s s.index.toNat (List.range (x.toNat + 1)) s fun bs s1 => .next (s1.setRegsFrom 0 bs)

end Sys2Proof.Machine
end

