-- ==== Sys2Proof/Machine/Input.lean ====
section
/-! DEFINITION. Key input and timers (spec/45_input_timers.md): EX9E, EXA1, FX0A and the wait slot, FX07, FX15, FX18. -/

namespace Sys2Proof.Machine

/-- EX9E (R137). -/
def execSkp (x : Reg) (s : State) : Result := skipIf (s.pressed (s.reg x)) s

/-- EXA1 (R138). -/
def execSknp (x : Reg) (s : State) : Result := skipIf (!s.pressed (s.reg x)) s

/-- FX0A (R139): the lowest pressed key, or the wait; PC stays Addr(a + 2) in both. -/
def execLdVxK (x : Reg) (s : State) : Result :=
  match s.lowestKey with
  | some k => .next (s.setReg x (trunc8 k))
  | none => .next (s.setRun (.waitKey x))

/-- `WaitSlot(x)` (R140): no instruction is fetched; a pressed key ends the wait. -/
def waitSlot (x : Reg) (s : State) : State :=
  match s.lowestKey with
  | some k => (s.setReg x (trunc8 k)).setRun .running
  | none => s

/-- FX07 (R141). -/
def execLdVxDt (x : Reg) (s : State) : Result := .next (s.setReg x s.dt)

/-- FX15 (R142). -/
def execLdDtVx (x : Reg) (s : State) : Result := .next (s.setDt (s.reg x))

/-- FX18 (R143). -/
def execLdStVx (x : Reg) (s : State) : Result := .next (s.setSt (s.reg x))

end Sys2Proof.Machine
end

