-- ==== Sys2Proof/Machine/Cycle.lean ====
section
/-! DEFINITION. One instruction slot (spec/40_cycle.md): fetch, advance, decode, execute, the unrecognized opcode, and the choice
by RUN between an instruction and a wait slot. -/

namespace Sys2Proof.Machine

/-- `Fetch16(a)` (R58), then the rest: two bytes, high byte first; the second is at `Addr(a + 1)`. -/
def fetch16 (a : Nat) (start s : State) (rest : Word → State → Result) : Result :=
  formAddrAt a start (a + 1) s fun a1 s1 => rest (wordOfBytes (s1.readByte a) (s1.readByte a1)) s1

/-- `PC <- Addr(a + 2)` (R95), then the rest. -/
def advance (a : Nat) (start s : State) (rest : State → Result) : Result :=
  formAddrAt a start (a + 2) s fun p s1 => rest (s1.setPc p)

/-- `Execute(Unknown(w), a, w)` (R98): the report, and nothing else. -/
def execUnknown (a : Nat) (w : Word) (s : State) : Result := .next (s.report (.unknownOpcode a w))

/-- `Execute(op, a, w)` (R97). -/
def execute (op : Op) (a : Nat) (s : State) : Result :=
  match op with
  | .instr i => exec i s
  | .unknown w => execUnknown a w s

/-- `Step()` (R94 to R97). `start` is the state at the start of the slot, which a fault records (R152). -/
def stepInstr (start s : State) : Result :=
  fetch16 s.pc.toNat start s fun w s1 =>
    advance s.pc.toNat start s1 fun s2 => recordStart start (execute (decode w) s.pc.toNat s2)

/-- The Scheduler's side of a slot: it is paid for by the instruction accumulator (R158; log 6), and from the first slot on no
load is admitted (R175; log 8). -/
def State.openSlot (s : State) : State := { s with accI := s.accI - s.params.frameRate, loadOpen := false }

/-- `Slot()` (R93, R101): an instruction when Running, a wait slot otherwise. -/
def slot (s : State) : Result :=
  match s.run with
  | .running => stepInstr s s.openSlot
  | .waitKey x => .next (waitSlot x s.openSlot)

end Sys2Proof.Machine
end

