-- ==== Sys2Proof/Machine/Scheduler.lean ====
section
/-! DEFINITION. The Scheduler (spec/60_exceptions.md section 3), reset and program load (spec/70_reset_and_hazards.md), and what
one step does: the next action of State.script, or an instruction slot when none is left (log 5). -/

namespace Sys2Proof.Machine

/-- `Poll()` and the check of `quit` (R158, R159, R165): KEY is written as a whole; on quit the Scheduler stops after the poll;
otherwise the wall-clock delta is added to both accumulators. -/
def poll (keys : Keys) (quit : Bool) (dt : Nat) (s : State) : State :=
  if quit then { s with key := keys, stopped := true }
  else { s with key := keys, accI := s.accI + dt, accF := s.accF + dt }

/-- One timer's decay: lowered by 1, floored at 0 (R35, R162). -/
def decay (t : Byte) : Byte := trunc8 (t.toNat - 1)

/-- `FrameTick()` (R161): both timers decay and the display output is signalled with the current display buffer (R135). It is
paid for by the frame accumulator (R158; log 6). -/
def State.frameTick (s : State) : State :=
  { s with
    dt := decay s.dt, st := decay s.st, redraws := s.redraws + 1, shown := s.fb, accF := s.accF - s.params.instrRate }

/-- No frame tick occurs: RUN = WaitKey(x) under `FREEZE_FRAME_DURING_WAIT = true` (R163). -/
def State.frozen (s : State) : Bool := s.params.freezeFrameDuringWait && s.run != .running

/-- A frame tick where the Scheduler admits one; where it is frozen none occurs and nothing changes (R163; log 9). -/
def frameTickAct (s : State) : State := if s.frozen then s else s.frameTick

/-- Reset (R170): every piece of state of rule R19 takes its reset value; the parameters, the host's further actions, the
oracle and what has left on the outputs are no such state (R19; log 17). -/
def resetAct (s : State) : State :=
  { State.reset with
    params := s.params, script := s.script, draws := s.draws, diag := s.diag, redraws := s.redraws, shown := s.shown }

/-- Program load (R173 to R175): verbatim from 0x200; an empty or too long image is reported and changes nothing; a load that is
not admitted is refused. -/
def load (image : List Byte) (s : State) : Result :=
  if s.loadOpen then
    if image.length = 0 then .next (s.report .programEmpty)
    else if programMax < image.length then .next (s.report (.programTooLarge image.length))
    else .next { s with mem := Memory.writeBytes s.params programBase image s.mem, loadOpen := false }
  else .refused .loadNotAdmitted

/-- One action between slots (R46, R158). -/
def perform (act : HostAct) (s : State) : Result :=
  match act with
  | .reset => .next (resetAct s)
  | .load image => load image s
  | .poll keys quit dt => .next (poll keys quit dt s)
  | .slot => slot s
  | .frameTick => .next (frameTickAct s)

/-- One step of the machine: nothing once the Scheduler has stopped (R165; log 7); else the next action of `script`, which is
taken off it; else an instruction slot (log 5). -/
def stepOnce (s : State) : Result :=
  if s.stopped then .next s
  else match s.script with
    | [] => slot s
    | act :: rest => perform act { s with script := rest }

/-- The actions of one iteration of the reference Scheduler of rule R158: the poll, then a slot for each 1/INSTR_RATE s and a
frame tick for each 1/FRAME_RATE s the accumulators hold once `dt` is added. One script among the many that are admitted. -/
def referenceIteration (s : State) (keys : Keys) (dt : Nat) : List HostAct :=
  HostAct.poll keys false dt ::
    (List.replicate ((s.accI + dt) / s.params.frameRate) HostAct.slot ++
      List.replicate ((s.accF + dt) / s.params.instrRate) HostAct.frameTick)

/-- The state with the word `w` stored high byte first at `a` and `Addr(a + 1)`, no host action before the next slot, and
RUN = Running with the Scheduler going, so that the next step fetches and runs the word at PC = `a` (R58, R93). -/
def placeWord (s : State) (w : Word) : State :=
  let a := s.pc.toNat
  let m := Memory.write s.params a (bytesOfWord w).1 s.mem
  { s with
    mem := Memory.write s.params ((a + 1) % 0x1000) (bytesOfWord w).2 m, script := [], run := .running, stopped := false }

end Sys2Proof.Machine
end

