-- ==== Sys2Proof/Machine/Step.lean ====
section
/-! DEFINITION. The step function, and the placing of an opcode-table word where step fetches next. -/

namespace Sys2Proof.Machine

/-- One step: see `stepOnce` (R93, R158). -/
def step (s : State) : Host.Outcome State Fault Refusal := stepOnce s

/-- `s` with the opcode-table word `w` of `nbits` bits as its next instruction (R75; log 16). -/
def State.withFetchWord (s : State) (nbits w : Nat) : State := placeWord s (tableWord nbits w)

end Sys2Proof.Machine
end

