-- ==== Sys2Proof/Safety.lean ====
section
/-! DEFINITION. The terms claims are stated in: what an instruction leaves alone, when an access completes, what it reports, the
invariant of the machine's state, the sprite of DXYN as a picture, and a parked program. -/

namespace Sys2Proof.Machine

/-! ## Frames -/

/-- The parts of the state a frame names. `sched` is the Scheduler's own state with the host's further actions; `display` is what
the display output has shown. -/
inductive Part where
  | params
  | memory
  | regs
  | index
  | pc
  | stack
  | delay
  | sound
  | screen
  | keys
  | run
  | sched
  | draws
  | events
  | display
deriving DecidableEq, Repr

/-- A part is the same in two states. Memory is the same when EVERY byte reads the same. -/
def SamePart : Part → State → State → Prop
  | .params, s, t => t.params = s.params
  | .memory, s, t => ∀ a, t.readByte a = s.readByte a
  | .regs, s, t => ∀ z, t.reg z = s.reg z
  | .index, s, t => t.index = s.index
  | .pc, s, t => t.pc = s.pc
  | .stack, s, t => t.stack = s.stack ∧ t.sp = s.sp
  | .delay, s, t => t.dt = s.dt
  | .sound, s, t => t.st = s.st
  | .screen, s, t => t.fb = s.fb
  | .keys, s, t => t.key = s.key
  | .run, s, t => t.run = s.run
  | .sched, s, t =>
    t.accI = s.accI ∧ t.accF = s.accF ∧ t.stopped = s.stopped ∧ t.loadOpen = s.loadOpen ∧ t.script = s.script
  | .draws, s, t => t.draws = s.draws
  | .events, s, t => t.diag = s.diag
  | .display, s, t => t.redraws = s.redraws ∧ t.shown = s.shown

/-- Everything but the parts listed is the same in `t` as in `s`. -/
def Keeps (written : List Part) (s t : State) : Prop := ∀ p, p ∉ written → SamePart p s t

/-! ## Forming an address -/

/-- `Addr(e)` gives an address: `e` is in range, or `OOB_POLICY = Wrap` (R56). -/
abbrev AddrOk (s : State) (e : Nat) : Prop := e ≤ 0xFFF ∨ s.params.oobPolicy = .wrap

/-- What `Addr(e)` reports in the instruction at `a` (R56, R151). -/
def oobReport (a e : Nat) : List Event := if e ≤ 0xFFF then [] else [.outOfBoundsAddress e a]

/-- What `Addr(base + k)` reports for the offsets of a list, in order (R153). -/
def oobReports (a base : Nat) (ks : List Nat) : List Event := ks.flatMap fun k => oobReport a (base + k)

/-! ## The state a slot leaves for the instruction -/

/-- The state the instruction at PC executes in, once it is fetched and PC is advanced (R58, R95): PC is Addr(a + 2), the
Scheduler has opened the slot, and what the fetch and the advance had to report is reported. -/
def State.executing (s : State) : State :=
  { s with
    pc := BitVec.ofNat 16 ((s.pc.toNat + 2) % 0x1000)
    accI := s.accI - s.params.frameRate
    loadOpen := false
    diag := s.diag ++ oobReport s.pc.toNat (s.pc.toNat + 1) ++ oobReport s.pc.toNat (s.pc.toNat + 2) }

/-- The next step is an instruction slot (R93): the Scheduler is going, and no host action stands before the slot, be it the slot
the script names next or the one that follows when the script is empty (log 5). -/
abbrev State.atSlot (s : State) : Prop := s.stopped = false ∧ (s.script = [] ∨ s.script.head? = some .slot)

/-- The state at the start of the next slot: its action, if it stands in the script, is taken off (logs 5, 12). -/
def State.slotStart (s : State) : State := { s with script := s.script.tail }

/-- The Scheduler's side of a slot taken in `s` (R41, R158, R175; logs 5, 6, 8): the slot's action is taken off, the Scheduler goes
on, no load is admitted from now on, and the slot is paid for. -/
structure SlotTaken (s t : State) : Prop where
  script : t.script = s.script.tail
  stopped : t.stopped = false
  loadOpen : t.loadOpen = false
  accI : t.accI = s.accI - s.params.frameRate
  accF : t.accF = s.accF

/-- The word at PC: two bytes, the high byte first, the second at Addr(PC + 1) (R58). -/
def State.wordAtPc (s : State) : Word :=
  wordOfBytes (s.readByte s.pc.toNat) (s.readByte ((s.pc.toNat + 1) % 0x1000))

/-- The next slot fetches at a PC in range, and the addresses of its fetch and its advance are formed (R26, R58, R95). -/
abbrev State.fetchOk (s : State) : Prop :=
  s.pc.toNat ≤ 0xFFF ∧ AddrOk s (s.pc.toNat + 1) ∧ AddrOk s (s.pc.toNat + 2)

/-! ## The invariant -/

/-- What every step keeps: memory is canonical (R50), PC and I are in 0x000 to 0xFFF (R24, R26), and so is every stack entry,
being an earlier PC value (R26). SP in 0 to 16 (R29) is its type. -/
def State.Inv (s : State) : Prop :=
  Memory.wf s.params s.mem ∧ s.pc.toNat ≤ 0xFFF ∧ s.index.toNat ≤ 0xFFF ∧ ∀ w ∈ s.stack.toList, w.toNat ≤ 0xFFF

/-! ## The sprite of DXYN -/

/-- Pixel (r, c) is lit by the sprite DXYN draws in state `s` (R133): row `r − oy` of the sprite has its bit `7 − (c − ox)` set, the
row being the byte at Addr(I + (r − oy)) and (ox, oy) the origin. -/
def spriteBit (s : State) (x y : Reg) (n : Nibble) (r c : Nat) : Bool :=
  let ox := s.originCol x
  let oy := s.originRow y
  decide (oy ≤ r ∧ r < oy + n.toNat ∧ ox ≤ c ∧ c < ox + 8) &&
    (s.readByte ((s.index.toNat + (r - oy)) % 0x1000)).getLsbD (7 - (c - ox))

/-! ## The end of a run -/

/-- Parked at `p` (R185): RUN = Running, PC = p and the word at p is the jump to itself. -/
def State.parked (s : State) (p : Addr12) : Prop :=
  s.run = .running ∧ s.pc.toNat = p.toNat ∧ decode s.wordAtPc = .instr (.jp p)

/-! ## Which instruction may change what -/

/-- The registers an instruction may write (R22): VX, VF as a flag, or V0 to VX. -/
def writesReg (z : Reg) : Instr → Bool
  | .ldImm x _ | .addImm x _ | .rnd x _ => z == x
  | .ldReg x _ | .orReg x _ | .andReg x _ | .xorReg x _ => z == x
  | .addReg x _ | .subReg x _ | .shr x _ | .subn x _ | .shl x _ => z == x || z == 0xF#4
  | .drw _ _ _ => z == 0xF#4
  | .ldVxDt x | .ldVxK x => z == x
  | .ldVxMem x => decide (z.toNat ≤ x.toNat)
  | .cls | .ret | .jp _ | .call _ | .seImm _ _ | .sneImm _ _ | .seReg _ _ | .sneReg _ _ | .ldI _ | .jpV0 _ => false
  | .skp _ | .sknp _ | .ldDtVx _ | .ldStVx _ | .addI _ | .ldF _ | .ldB _ | .ldMemVx _ => false

/-- The addresses an instruction may store to in state `s` (R60): three for FX33, X + 1 for FX55, none for any other. -/
def storesTo (s : State) (a : Nat) : Instr → Prop
  | .ldB _ => ∃ k, k < 3 ∧ a = (s.index.toNat + k) % 0x1000
  | .ldMemVx x => ∃ k, k < x.toNat + 1 ∧ a = (s.index.toNat + k) % 0x1000
  | .cls | .ret | .jp _ | .call _ | .seImm _ _ | .sneImm _ _ | .seReg _ _ | .ldImm _ _ | .addImm _ _ | .ldReg _ _ => False
  | .orReg _ _ | .andReg _ _ | .xorReg _ _ | .addReg _ _ | .subReg _ _ | .shr _ _ | .subn _ _ | .shl _ _ => False
  | .sneReg _ _ | .ldI _ | .jpV0 _ | .rnd _ _ | .drw _ _ _ | .skp _ | .sknp _ | .ldVxDt _ | .ldVxK _ => False
  | .ldDtVx _ | .ldStVx _ | .addI _ | .ldF _ | .ldVxMem _ => False

/-- A state without what the outputs have shown (R47, R48): no instruction reads it. -/
def State.noOutputs (s : State) : State := { s with diag := [], redraws := 0, shown := Frame.clear }

/-- A step's answer without what the outputs have shown. -/
def noOutputs : Result → Result
  | .next t => .next t.noOutputs
  | .fault (.outOfBoundsAddress e a s) => .fault (.outOfBoundsAddress e a s.noOutputs)
  | .fault (.stackOverflow a s) => .fault (.stackOverflow a s.noOutputs)
  | .fault (.stackUnderflow a s) => .fault (.stackUnderflow a s.noOutputs)
  | .refused r => .refused r

/-- A word from its four nibbles, as the rules write it: class, X, Y, N from the most significant (R10, R76). -/
def wordOfNibbles (c x y n : BitVec 4) : Word :=
  BitVec.ofNat 16 (c.toNat * 0x1000 + x.toNat * 0x100 + y.toNat * 0x10 + n.toNat)

/-- A byte from two nibbles: kk = y ++ n (R76). -/
def byteOfNibbles (y n : BitVec 4) : Byte := BitVec.ofNat 8 (y.toNat * 0x10 + n.toNat)

/-- A 12-bit address from three nibbles: nnn = x ++ y ++ n (R76). -/
def addrOfNibbles (x y n : BitVec 4) : Addr12 := BitVec.ofNat 12 (x.toNat * 0x100 + y.toNat * 0x10 + n.toNat)

/-- Calls in a row, each from a PC of its own (already advanced): `2NNN` executed with PC = p for each (p, nnn) of a list. -/
def callEach : List (Word × Addr12) → State → Result
  | [], s => .next s
  | (p, nnn) :: rest, s =>
    match exec (.call nnn) { s with pc := p } with
    | .next t => callEach rest t
    | other => other

/-- `00EE` executed `k` times in a row. -/
def returnTimes : Nat → State → Result
  | 0, s => .next s
  | k + 1, s =>
    match exec .ret s with
    | .next t => returnTimes k t
    | other => other

end Sys2Proof.Machine
end

