-- ==== Sys2Proof/Certificates/Slice0/Obligations.lean ====
section
/-! DEFINITION. The statements for the provers, drawn from the numbered rules of spec/. `Keeps parts s t` says that everything but
the parts named is the same in `t` as in `s`; a statement that a form COMPLETES has `exec … = .next t` in its conclusion. -/

open Sys2Proof Sys2Proof.Machine

/-! ## Encoding -/

/-- R92: the five words of the source's one listing, read from their bytes as the hardware stores them (high byte first). -/
def Obligations.SpecListingDecodes : Prop :=
  decodeBytes [0x60#8, 0x05#8] = .op (.instr (.ldImm 0x0#4 0x05#8)) [] ∧
  decodeBytes [0x61#8, 0x04#8] = .op (.instr (.ldImm 0x1#4 0x04#8)) [] ∧
  decodeBytes [0xA0#8, 0x50#8] = .op (.instr (.ldI 0x050#12)) [] ∧
  decodeBytes [0xD0#8, 0x15#8] = .op (.instr (.drw 0x0#4 0x1#4 0x5#4)) [] ∧
  decodeBytes [0x12#8, 0x04#8] = .op (.instr (.jp 0x204#12)) []

/-- R75, R76, R89: the two bytes of every well-formed descriptor decode to that descriptor, whatever bytes follow. -/
def Obligations.DecodeOfEncodeIsIdentity : Prop :=
  ∀ (op : Op) (rest : List Byte), op.wf = true →
    decodeBytes ((bytesOfWord (encodeOp op)).1 :: (bytesOfWord (encodeOp op)).2 :: rest) = .op op rest

/-- R76, R88: the descriptor of every word encodes back to that word, so no bit of a word is dropped by decoding. -/
def Obligations.EncodeOfDecodeIsIdentity : Prop :=
  ∀ w : Word, encodeOp (decode w) = w ∧ (decode w).wf = true

/-- R77, R85: a word decodes to `Unknown(w)` exactly when it is in the table of unrecognized words; every other word decodes to
an instruction. -/
def Obligations.UnrecognizedWordsExactly : Prop :=
  ∀ w : Word, (unrecognized w = true → decode w = .unknown w) ∧
    (unrecognized w = false → ∃ i, decode w = .instr i)

/-- R80: the classes with one instruction each, on words written nibble by nibble. -/
def Obligations.ClassSelectsInstruction : Prop :=
  ∀ x y n : BitVec 4,
    decode (wordOfNibbles 0x1#4 x y n) = .instr (.jp (addrOfNibbles x y n)) ∧
    decode (wordOfNibbles 0x2#4 x y n) = .instr (.call (addrOfNibbles x y n)) ∧
    decode (wordOfNibbles 0x3#4 x y n) = .instr (.seImm x (byteOfNibbles y n)) ∧
    decode (wordOfNibbles 0x4#4 x y n) = .instr (.sneImm x (byteOfNibbles y n)) ∧
    decode (wordOfNibbles 0x6#4 x y n) = .instr (.ldImm x (byteOfNibbles y n)) ∧
    decode (wordOfNibbles 0x7#4 x y n) = .instr (.addImm x (byteOfNibbles y n)) ∧
    decode (wordOfNibbles 0xA#4 x y n) = .instr (.ldI (addrOfNibbles x y n)) ∧
    decode (wordOfNibbles 0xB#4 x y n) = .instr (.jpV0 (addrOfNibbles x y n)) ∧
    decode (wordOfNibbles 0xC#4 x y n) = .instr (.rnd x (byteOfNibbles y n)) ∧
    decode (wordOfNibbles 0xD#4 x y n) = .instr (.drw x y n)

/-- R81 to R84, R86: the sub-tables of classes 0, 5, 8, 9, E and F, on words written nibble by nibble. -/
def Obligations.SubTablesSelectInstruction : Prop :=
  ∀ x y n : BitVec 4,
    (let w := wordOfNibbles 0x0#4 x y n
     decode w = if w.toNat = 0x00E0 then .instr .cls else if w.toNat = 0x00EE then .instr .ret else .unknown w) ∧
    (let w := wordOfNibbles 0x5#4 x y n
     decode w = if n.toNat = 0 then .instr (.seReg x y) else .unknown w) ∧
    (let w := wordOfNibbles 0x8#4 x y n
     decode w =
      if n.toNat = 0x0 then .instr (.ldReg x y)
      else if n.toNat = 0x1 then .instr (.orReg x y)
      else if n.toNat = 0x2 then .instr (.andReg x y)
      else if n.toNat = 0x3 then .instr (.xorReg x y)
      else if n.toNat = 0x4 then .instr (.addReg x y)
      else if n.toNat = 0x5 then .instr (.subReg x y)
      else if n.toNat = 0x6 then .instr (.shr x y)
      else if n.toNat = 0x7 then .instr (.subn x y)
      else if n.toNat = 0xE then .instr (.shl x y)
      else .unknown w) ∧
    (let w := wordOfNibbles 0x9#4 x y n
     decode w = if n.toNat = 0 then .instr (.sneReg x y) else .unknown w) ∧
    (let w := wordOfNibbles 0xE#4 x y n
     let kk := y.toNat * 0x10 + n.toNat
     decode w = if kk = 0x9E then .instr (.skp x) else if kk = 0xA1 then .instr (.sknp x) else .unknown w) ∧
    (let w := wordOfNibbles 0xF#4 x y n
     let kk := y.toNat * 0x10 + n.toNat
     decode w =
      if kk = 0x07 then .instr (.ldVxDt x)
      else if kk = 0x0A then .instr (.ldVxK x)
      else if kk = 0x15 then .instr (.ldDtVx x)
      else if kk = 0x18 then .instr (.ldStVx x)
      else if kk = 0x1E then .instr (.addI x)
      else if kk = 0x29 then .instr (.ldF x)
      else if kk = 0x33 then .instr (.ldB x)
      else if kk = 0x55 then .instr (.ldMemVx x)
      else if kk = 0x65 then .instr (.ldVxMem x)
      else .unknown w)

/-! ## Addresses and memory -/

/-- R56: `Addr(e)` gives e itself up to 0xFFF; above, it reports OutOfBoundsAddress and, by `OOB_POLICY`, gives e mod 0x1000 or
ends in the fault outcome. `k` is the rest of the rule, whatever it is. The reports are the list of log 10, and the state a
fault records is the one given (log 12). -/
def Obligations.AddrWrapsOrFaults : Prop :=
  ∀ (a : Nat) (start s : State) (e : Nat) (k : Nat → State → Result),
    (e ≤ 0xFFF → formAddrAt a start e s k = k e s) ∧
    (0xFFF < e → s.params.oobPolicy = .wrap →
      ∃ t, t.diag = s.diag ++ [.outOfBoundsAddress e a] ∧ Keeps [.events] s t ∧
        formAddrAt a start e s k = k (e % 0x1000) t) ∧
    (0xFFF < e → s.params.oobPolicy = .fault →
      formAddrAt a start e s k = .fault (.outOfBoundsAddress e a start))

/-- R57: a byte written is the byte read back at that address, and no other address is changed. -/
def Obligations.MemoryReadAfterWrite : Prop :=
  ∀ (s : State) (a b : Nat) (v : Byte),
    (s.writeByte a v).readByte b = (if b = a then v else s.readByte b) ∧ Keeps [.memory] s (s.writeByte a v)

/-- R50: every memory write below 0x1000 keeps the canonical form, so two canonical memories in which every address reads the
same are the same data. The canonical list is the model's form of the memory (log 3). -/
def Obligations.CanonicalMemoriesAreEqualData : Prop :=
  (∀ (p : Params) (a : Nat) (v : Byte) (m : Memory), a < 0x1000 → Memory.wf p m → Memory.wf p (Memory.write p a v m)) ∧
  ∀ (p : Params) (m m' : Memory), Memory.wf p m → Memory.wf p m' →
    (∀ a, Memory.read p m a = Memory.read p m' a) → m = m'

/-! ## Control transfer -/

/-- R104: 1NNN. -/
def Obligations.JumpSetsPc : Prop :=
  ∀ (nnn : Addr12) (s : State), ∃ t, exec (.jp nnn) s = .next t ∧ t.pc.toNat = nnn.toNat ∧ Keeps [.pc] s t

/-- R105, R31: 2NNN pushes the already-advanced PC and jumps while an entry is free; with SP = 16, under `STACK_POLICY = Clamp`,
it only reports StackOverflow at its own address. The reports are the list of log 10, with the instruction address of log 11. -/
def Obligations.CallPushesReturnAddress : Prop :=
  ∀ (nnn : Addr12) (s : State),
    (s.sp.val < 16 → ∃ t, exec (.call nnn) s = .next t ∧ t.pc.toNat = nnn.toNat ∧ t.sp.val = s.sp.val + 1 ∧
      t.stack[s.sp.val]? = some s.pc ∧ (∀ k : Nat, k ≠ s.sp.val → t.stack[k]? = s.stack[k]?) ∧ Keeps [.pc, .stack] s t) ∧
    (s.sp.val = 16 → s.params.stackPolicy = .clamp → ∃ t, exec (.call nnn) s = .next t ∧
      t.diag = s.diag ++ [.stackOverflow s.instrAddr] ∧ Keeps [.events] s t)

/-- R103, R32: 00EE pops the most recent entry into PC and leaves the entry in place; with SP = 0, under `STACK_POLICY = Clamp`,
it only reports StackUnderflow at its own address. The reports are the list of log 10, with the instruction address of log 11.
-/
def Obligations.ReturnPopsIntoPc : Prop :=
  ∀ s : State,
    (0 < s.sp.val → ∃ t, exec .ret s = .next t ∧ s.stack[s.sp.val - 1]? = some t.pc ∧ t.sp.val = s.sp.val - 1 ∧
      t.stack = s.stack ∧ Keeps [.pc, .stack] s t) ∧
    (s.sp.val = 0 → s.params.stackPolicy = .clamp → ∃ t, exec .ret s = .next t ∧
      t.diag = s.diag ++ [.stackUnderflow s.instrAddr] ∧ Keeps [.events] s t)

/-- R152, V16: under `STACK_POLICY = Fault` the slot of a 2NNN with SP = 16, or of a 00EE with SP = 0, ends in the fault outcome, which
records the instruction's address and the state at the start of the slot. The slot is the script's next action or the one that
follows an empty script (`atSlot`, log 5), and the recorded state is that of log 12. -/
def Obligations.StackFaultRecordsSlotStart : Prop :=
  ∀ (s : State), s.atSlot → s.run = .running → s.fetchOk → s.params.stackPolicy = .fault →
    (∀ nnn, decode s.wordAtPc = .instr (.call nnn) → s.sp.val = 16 →
      step s = .fault (.stackOverflow s.pc.toNat s.slotStart)) ∧
    (decode s.wordAtPc = .instr .ret → s.sp.val = 0 → step s = .fault (.stackUnderflow s.pc.toNat s.slotStart))

/-- R106: BNNN jumps to Addr(nnn + V0), always V0. The reports are the list of log 10, with the instruction address of log 11.
-/
def Obligations.JumpOffsetAddsVZero : Prop :=
  ∀ (nnn : Addr12) (s : State), AddrOk s (nnn.toNat + (s.reg 0x0#4).toNat) →
    ∃ t, exec (.jpV0 nnn) s = .next t ∧ t.pc.toNat = (nnn.toNat + (s.reg 0x0#4).toNat) % 0x1000 ∧
      t.diag = s.diag ++ oobReport s.instrAddr (nnn.toNat + (s.reg 0x0#4).toNat) ∧ Keeps [.pc, .events] s t

/-- R107, R108: 3XKK skips iff VX = kk, 4XKK iff VX ≠ kk. The one that skips needs Addr(PC + 2) to give an address; the one that does
not skip leaves the state as it is, whatever PC and the policy are. The reports are the list of log 10, with the instruction
address of log 11. -/
def Obligations.ImmediateSkips : Prop :=
  ∀ (x : Reg) (kk : Byte) (s : State),
    (AddrOk s (s.pc.toNat + 2) →
      ∃ taken, exec (if s.reg x = kk then .seImm x kk else .sneImm x kk) s = .next taken ∧
        taken.pc.toNat = (s.pc.toNat + 2) % 0x1000 ∧
        taken.diag = s.diag ++ oobReport s.instrAddr (s.pc.toNat + 2) ∧ Keeps [.pc, .events] s taken) ∧
    exec (if s.reg x = kk then .sneImm x kk else .seImm x kk) s = .next s

/-- R109, R110: 5XY0 skips iff VX = VY, 9XY0 iff VX ≠ VY. The one that skips needs Addr(PC + 2) to give an address; the one that does
not skip leaves the state as it is, whatever PC and the policy are. The reports are the list of log 10, with the instruction
address of log 11. -/
def Obligations.RegisterSkips : Prop :=
  ∀ (x y : Reg) (s : State),
    (AddrOk s (s.pc.toNat + 2) →
      ∃ taken, exec (if s.reg x = s.reg y then .seReg x y else .sneReg x y) s = .next taken ∧
        taken.pc.toNat = (s.pc.toNat + 2) % 0x1000 ∧
        taken.diag = s.diag ++ oobReport s.instrAddr (s.pc.toNat + 2) ∧ Keeps [.pc, .events] s taken) ∧
    exec (if s.reg x = s.reg y then .sneReg x y else .seReg x y) s = .next s

/-- R136 to R138: EX9E skips iff the key VX names is pressed, EXA1 iff it is not; a value above 0xF names no key under
`KEY_INDEX_POLICY = NotPressed` and the key of its low nibble under `LowNibble`. The one that skips needs Addr(PC + 2) to give an
address; the one that does not skip leaves the state as it is, whatever PC and the policy of addresses are. The reports are the
list of log 10, with the instruction address of log 11. -/
def Obligations.KeySkips : Prop :=
  ∀ (x : Reg) (s : State) (down : Bool),
    ((s.reg x).toNat ≤ 0xF → down = s.keyDown (s.reg x).toNat) →
    (0xF < (s.reg x).toNat → s.params.keyIndexPolicy = .notPressed → down = false) →
    (0xF < (s.reg x).toNat → s.params.keyIndexPolicy = .lowNibble → down = s.keyDown ((s.reg x).toNat % 0x10)) →
    (AddrOk s (s.pc.toNat + 2) →
      ∃ taken, exec (if down then .skp x else .sknp x) s = .next taken ∧
        taken.pc.toNat = (s.pc.toNat + 2) % 0x1000 ∧
        taken.diag = s.diag ++ oobReport s.instrAddr (s.pc.toNat + 2) ∧ Keeps [.pc, .events] s taken) ∧
    exec (if down then .sknp x else .skp x) s = .next s

/-- §8 of the source as E3 states it: N calls in a row and then N returns bring PC back to the PC of the first call (already
advanced, so the call's address plus 2) and SP back to its value, for every N the stack has room for. -/
def Obligations.NestedCallsReturn : Prop :=
  ∀ (calls : List (Word × Addr12)) (s : State), s.sp.val + calls.length ≤ 16 →
    ∃ u t, callEach calls s = .next u ∧ u.sp.val = s.sp.val + calls.length ∧
      returnTimes calls.length u = .next t ∧ t.sp = s.sp ∧
      (∀ p nnn rest, calls = (p, nnn) :: rest → t.pc = p) ∧
      (∀ k : Nat, k < s.sp.val → t.stack[k]? = s.stack[k]?) ∧ Keeps [.pc, .stack] s t

/-! ## ALU -/

/-- R113, R114: 6XKK loads kk; 7XKK adds kk modulo 256 and changes no flag (no other register). -/
def Obligations.ImmediateLoadAndAdd : Prop :=
  ∀ (x : Reg) (kk : Byte) (s : State),
    (∃ t, exec (.ldImm x kk) s = .next t ∧ (∀ z, t.reg z = if z = x then kk else s.reg z) ∧ Keeps [.regs] s t) ∧
    (∃ t, exec (.addImm x kk) s = .next t ∧ (t.reg x).toNat = ((s.reg x).toNat + kk.toNat) % 256 ∧
      (∀ z, z ≠ x → t.reg z = s.reg z) ∧ Keeps [.regs] s t)

/-- R115 to R118: 8XY0 assigns, 8XY1, 8XY2 and 8XY3 combine bit by bit; no other register (no flag) changes. -/
def Obligations.AssignAndLogic : Prop :=
  ∀ (x y : Reg) (s : State),
    (∃ t, exec (.ldReg x y) s = .next t ∧ (∀ z, t.reg z = if z = x then s.reg y else s.reg z) ∧ Keeps [.regs] s t) ∧
    (∃ t, exec (.orReg x y) s = .next t ∧
      (∀ k, (t.reg x).getLsbD k = ((s.reg x).getLsbD k || (s.reg y).getLsbD k)) ∧
      (∀ z, z ≠ x → t.reg z = s.reg z) ∧ Keeps [.regs] s t) ∧
    (∃ t, exec (.andReg x y) s = .next t ∧
      (∀ k, (t.reg x).getLsbD k = ((s.reg x).getLsbD k && (s.reg y).getLsbD k)) ∧
      (∀ z, z ≠ x → t.reg z = s.reg z) ∧ Keeps [.regs] s t) ∧
    (∃ t, exec (.xorReg x y) s = .next t ∧
      (∀ k, (t.reg x).getLsbD k = ((s.reg x).getLsbD k ^^ (s.reg y).getLsbD k)) ∧
      (∀ z, z ≠ x → t.reg z = s.reg z) ∧ Keeps [.regs] s t)

/-- R119, R111, R112: 8XY4, the sum modulo 256 in VX, then the carry in VF (also when x = F). -/
def Obligations.AddSetsCarry : Prop :=
  ∀ (x y : Reg) (s : State), ∃ t, exec (.addReg x y) s = .next t ∧
    (t.reg 0xF#4).toNat = (if 255 < (s.reg x).toNat + (s.reg y).toNat then 1 else 0) ∧
    (x ≠ 0xF#4 → (t.reg x).toNat = ((s.reg x).toNat + (s.reg y).toNat) % 256) ∧
    (∀ z, z ≠ x → z ≠ 0xF#4 → t.reg z = s.reg z) ∧ Keeps [.regs] s t

/-- R120, R122, R111, R112: 8XY5 and 8XY7, the difference modulo 256 in VX, then NOT borrow in VF (also when x = F). -/
def Obligations.SubtractSetsNotBorrow : Prop :=
  ∀ (x y : Reg) (s : State),
    (∃ t, exec (.subReg x y) s = .next t ∧
      (t.reg 0xF#4).toNat = (if (s.reg y).toNat ≤ (s.reg x).toNat then 1 else 0) ∧
      (x ≠ 0xF#4 → ((t.reg x).toNat : Int) = ((s.reg x).toNat - (s.reg y).toNat : Int) % 256) ∧
      (∀ z, z ≠ x → z ≠ 0xF#4 → t.reg z = s.reg z) ∧ Keeps [.regs] s t) ∧
    (∃ t, exec (.subn x y) s = .next t ∧
      (t.reg 0xF#4).toNat = (if (s.reg x).toNat ≤ (s.reg y).toNat then 1 else 0) ∧
      (x ≠ 0xF#4 → ((t.reg x).toNat : Int) = ((s.reg y).toNat - (s.reg x).toNat : Int) % 256) ∧
      (∀ z, z ≠ x → z ≠ 0xF#4 → t.reg z = s.reg z) ∧ Keeps [.regs] s t)

/-- R121, R123, R112: 8XY6 and 8XYE shift the register `SHIFT_SOURCE` selects by one bit into VX; VF is the bit shifted out. -/
def Obligations.ShiftsSetDroppedBit : Prop :=
  ∀ (x y : Reg) (s : State) (src : Nat),
    (s.params.shiftSource = .vx → src = (s.reg x).toNat) → (s.params.shiftSource = .vy → src = (s.reg y).toNat) →
    (∃ t, exec (.shr x y) s = .next t ∧ (t.reg 0xF#4).toNat = src % 2 ∧
      (x ≠ 0xF#4 → (t.reg x).toNat = src / 2) ∧
      (∀ z, z ≠ x → z ≠ 0xF#4 → t.reg z = s.reg z) ∧ Keeps [.regs] s t) ∧
    (∃ t, exec (.shl x y) s = .next t ∧ (t.reg 0xF#4).toNat = src / 128 ∧
      (x ≠ 0xF#4 → (t.reg x).toNat = src * 2 % 256) ∧
      (∀ z, z ≠ x → z ≠ 0xF#4 → t.reg z = s.reg z) ∧ Keeps [.regs] s t)

/-- R124: CXKK writes the free byte of this draw AND kk, and takes the draw even when kk = 0. The byte is the opaque
`Config.randByte s.draws`: the statement holds for every generator. That each draw is the next value of one opaque sequence is
the model's form of the oracle (log 4). -/
def Obligations.RandomIsMaskedFreeByte : Prop :=
  ∀ (x : Reg) (kk : Byte) (s : State), ∃ t, exec (.rnd x kk) s = .next t ∧
    (∀ k, (t.reg x).getLsbD k = ((Config.randByte s.draws).getLsbD k && kk.getLsbD k)) ∧
    t.draws = s.draws + 1 ∧ (∀ z, z ≠ x → t.reg z = s.reg z) ∧ Keeps [.regs, .draws] s t

/-! ## Index register and block transfers -/

/-- R125, R127: ANNN loads nnn; FX29 loads 0x050 + 5·VX with the full 8-bit VX. -/
def Obligations.IndexLoads : Prop :=
  ∀ s : State,
    (∀ nnn : Addr12, ∃ t, exec (.ldI nnn) s = .next t ∧ t.index.toNat = nnn.toNat ∧ Keeps [.index] s t) ∧
    (∀ x : Reg, ∃ t, exec (.ldF x) s = .next t ∧ t.index.toNat = 0x050 + 5 * (s.reg x).toNat ∧ Keeps [.index] s t)

/-- R126: FX1E writes Addr(I + VX) to I and no flag. The reports are the list of log 10, with the instruction address of log 11.
-/
def Obligations.IndexAdd : Prop :=
  ∀ (x : Reg) (s : State), AddrOk s (s.index.toNat + (s.reg x).toNat) →
    ∃ t, exec (.addI x) s = .next t ∧ t.index.toNat = (s.index.toNat + (s.reg x).toNat) % 0x1000 ∧
      t.diag = s.diag ++ oobReport s.instrAddr (s.index.toNat + (s.reg x).toNat) ∧ Keeps [.index, .events] s t

/-- R128: FX33 stores the hundreds, tens and ones of VX at Addr(I), Addr(I + 1), Addr(I + 2) and nothing else; I unchanged. The
reports are the list of log 10, with the instruction address of log 11. -/
def Obligations.BcdStoresThreeDigits : Prop :=
  ∀ (x : Reg) (s : State), (∀ k, k < 3 → AddrOk s (s.index.toNat + k)) →
    ∃ t, exec (.ldB x) s = .next t ∧
      (t.readByte (s.index.toNat % 0x1000)).toNat = (s.reg x).toNat / 100 ∧
      (t.readByte ((s.index.toNat + 1) % 0x1000)).toNat = (s.reg x).toNat / 10 % 10 ∧
      (t.readByte ((s.index.toNat + 2) % 0x1000)).toNat = (s.reg x).toNat % 10 ∧
      (∀ a, (∀ k, k < 3 → a ≠ (s.index.toNat + k) % 0x1000) → t.readByte a = s.readByte a) ∧
      t.diag = s.diag ++ oobReports s.instrAddr s.index.toNat [0, 1, 2] ∧ Keeps [.memory, .events] s t

/-- R129: FX55 stores V0 to VX at Addr(I + k) and nothing else; I unchanged. The reports are the list of log 10, with the
instruction address of log 11. -/
def Obligations.RegistersStored : Prop :=
  ∀ (x : Reg) (s : State), (∀ k, k ≤ x.toNat → AddrOk s (s.index.toNat + k)) →
    ∃ t, exec (.ldMemVx x) s = .next t ∧
      (∀ z : Reg, z.toNat ≤ x.toNat → t.readByte ((s.index.toNat + z.toNat) % 0x1000) = s.reg z) ∧
      (∀ a, (∀ k, k ≤ x.toNat → a ≠ (s.index.toNat + k) % 0x1000) → t.readByte a = s.readByte a) ∧
      t.diag = s.diag ++ oobReports s.instrAddr s.index.toNat (List.range (x.toNat + 1)) ∧ Keeps [.memory, .events] s t

/-- R130: FX65 loads V0 to VX from Addr(I + k) and changes no other register; I unchanged. The reports are the list of log 10,
with the instruction address of log 11. -/
def Obligations.RegistersLoaded : Prop :=
  ∀ (x : Reg) (s : State), (∀ k, k ≤ x.toNat → AddrOk s (s.index.toNat + k)) →
    ∃ t, exec (.ldVxMem x) s = .next t ∧
      (∀ z : Reg, t.reg z =
        if z.toNat ≤ x.toNat then s.readByte ((s.index.toNat + z.toNat) % 0x1000) else s.reg z) ∧
      t.diag = s.diag ++ oobReports s.instrAddr s.index.toNat (List.range (x.toNat + 1)) ∧ Keeps [.regs, .events] s t

/-- R68, R181, V76: FX55 with the next instruction's address in I: the very next fetch reads the stored registers V0 and V1 as the
instruction word. -/
def Obligations.StoreIsSeenByNextFetch : Prop :=
  ∀ (x : Reg) (s t : State), 1 ≤ x.toNat → s.index = s.pc → s.pc.toNat ≤ 0xFFF → exec (.ldMemVx x) s = .next t →
    t.wordAtPc = wordOfBytes (s.reg 0x0#4) (s.reg 0x1#4)

/-! ## Display -/

/-- R132: 00E0 clears every pixel and changes nothing else (VF unchanged). -/
def Obligations.ClearBlanksScreen : Prop :=
  ∀ s : State, ∃ t, exec .cls s = .next t ∧ (∀ r c, Frame.get t.fb r c = false) ∧ Keeps [.screen] s t

/-- R133: DXYN inverts exactly the on-screen pixels its sprite lights (`spriteBit`), clipped at the right and bottom edges; VF
is 1 iff one of them was 1; every byte of the sprite is read even when clipped (its reports). The reports are the list of log
10, with the instruction address of log 11. Which column a bit of a sprite byte lands in (bit 7 leftmost) and which way the rows
run is presumed, from general knowledge (R134, log 14). -/
def Obligations.DrawInvertsSpritePixels : Prop :=
  ∀ (x y : Reg) (n : Nibble) (s : State), (∀ k, k < n.toNat → AddrOk s (s.index.toNat + k)) →
    ∃ t, exec (.drw x y n) s = .next t ∧
      (∀ r c, r < 32 → c < 64 → Frame.get t.fb r c = (Frame.get s.fb r c ^^ spriteBit s x y n r c)) ∧
      ((t.reg 0xF#4).toNat = 1 ∨ (t.reg 0xF#4).toNat = 0) ∧
      ((t.reg 0xF#4).toNat = 1 ↔
        ∃ r c, r < 32 ∧ c < 64 ∧ spriteBit s x y n r c = true ∧ Frame.get s.fb r c = true) ∧
      (∀ z, z ≠ 0xF#4 → t.reg z = s.reg z) ∧
      t.diag = s.diag ++ oobReports s.instrAddr s.index.toNat (List.range n.toNat) ∧
      Keeps [.screen, .regs, .events] s t

/-- E4, R133: drawing the same sprite twice at the same origin restores the display buffer. The origin of the second draw is the
same when neither x nor y is F, and also when one is F and the VF of the first draw gives the same coordinate as before. VF of
the second draw is 1 iff the sprite lit an on-screen pixel that was 0 before the first draw: the pseudocode's answer, which
differs from the sentence of E4 and C4 where the sprite's pixels were 1 before (log 24). Which column a bit of a sprite byte
lands in is presumed (log 14). -/
def Obligations.DrawTwiceRestoresScreen : Prop :=
  ∀ (x y : Reg) (n : Nibble) (s : State), (∀ k, k < n.toNat → AddrOk s (s.index.toNat + k)) →
    ∃ t, exec (.drw x y n) s = .next t ∧
      (x ≠ 0xF#4 → y ≠ 0xF#4 → t.originCol x = s.originCol x ∧ t.originRow y = s.originRow y) ∧
      (t.originCol x = s.originCol x → t.originRow y = s.originRow y →
        ∃ u, exec (.drw x y n) t = .next u ∧ u.fb = s.fb ∧
          ((u.reg 0xF#4).toNat = 1 ↔
            ∃ r c, r < 32 ∧ c < 64 ∧ spriteBit s x y n r c = true ∧ Frame.get s.fb r c = false))

/-- The corner case of R133 and C4 word for word: the second draw sets VF = 1 exactly when at least one 1-bit of the sprite lies on
the screen, WHATEVER the buffer held before. The pseudocode of R133 refutes it: a pixel that was 1 before the first draw is 0 for
the second, which then erases nothing there (log 24). Expected to fail. -/
def Obligations.SecondDrawCollidesIffOnScreen : Prop :=
  ∀ (x y : Reg) (n : Nibble) (s t u : State), x ≠ 0xF#4 → y ≠ 0xF#4 → exec (.drw x y n) s = .next t →
    exec (.drw x y n) t = .next u →
    ((u.reg 0xF#4).toNat = 1 ↔ ∃ r c, r < 32 ∧ c < 64 ∧ spriteBit s x y n r c = true)

/-! ## Keys and timers -/

/-- R139: FX0A takes the lowest pressed key at once; with none pressed it suspends in WaitKey(x), PC unchanged. -/
def Obligations.KeyWaitStartsOrCompletes : Prop :=
  ∀ (x : Reg) (s : State),
    (∀ k, s.keyDown k = true → (∀ j, j < k → s.keyDown j = false) →
      ∃ t, exec (.ldVxK x) s = .next t ∧ (t.reg x).toNat = k ∧ (∀ z, z ≠ x → t.reg z = s.reg z) ∧ Keeps [.regs] s t) ∧
    ((∀ k, s.keyDown k = false) → ∃ t, exec (.ldVxK x) s = .next t ∧ t.run = .waitKey x ∧ Keeps [.run] s t)

/-- R140, R101: a step whose slot is a wait slot executes no instruction; the lowest pressed key ends the wait, and with none pressed
nothing changes but the Scheduler's own bookkeeping (`SlotTaken`). The slot is the script's next action or the one that follows an
empty script (`atSlot`); that and the bookkeeping are logs 5, 6 and 8. -/
def Obligations.WaitSlotEndsOnKey : Prop :=
  ∀ (x : Reg) (s : State), s.atSlot → s.run = .waitKey x →
    (∀ k, s.keyDown k = true → (∀ j, j < k → s.keyDown j = false) →
      ∃ t, step s = .next t ∧ t.run = .running ∧ (t.reg x).toNat = k ∧ (∀ z, z ≠ x → t.reg z = s.reg z) ∧
        SlotTaken s t ∧ Keeps [.regs, .run, .sched] s t) ∧
    ((∀ k, s.keyDown k = false) → ∃ t, step s = .next t ∧ SlotTaken s t ∧ Keeps [.sched] s t)

/-- R141 to R143: FX07 reads DT, FX15 and FX18 set DT and ST from VX, each at once and alone. -/
def Obligations.TimerInstructions : Prop :=
  ∀ (x : Reg) (s : State),
    (∃ t, exec (.ldVxDt x) s = .next t ∧ (∀ z, t.reg z = if z = x then s.dt else s.reg z) ∧ Keeps [.regs] s t) ∧
    (∃ t, exec (.ldDtVx x) s = .next t ∧ t.dt = s.reg x ∧ Keeps [.delay] s t) ∧
    (∃ t, exec (.ldStVx x) s = .next t ∧ t.st = s.reg x ∧ Keeps [.sound] s t)

/-! ## The slot -/

/-- R58, R94 to R97: a step whose bytes at PC decode to the instruction i is `exec i` in the state the fetch and the advance
leave (`executing`: PC = Addr(a + 2), what they report, the slot opened), a fault of it recorded with the state at the start of
the slot. The second clause is the same step with the slot as the host's next action. The script of actions is log 5, the
accumulator is log 6, the load window log 8, the recorded state log 12. -/
def Obligations.StepRunsDecodedInstruction : Prop :=
  ∀ (s : State) (i : Instr), s.stopped = false → s.run = .running → s.fetchOk → i.wf = true →
    decodeBytes [s.readByte s.pc.toNat, s.readByte ((s.pc.toNat + 1) % 0x1000)] = .op (.instr i) [] →
    (s.script = [] → step s = recordStart s (exec i s.executing)) ∧
    (∀ rest, s.script = .slot :: rest →
      step s = recordStart { s with script := rest } (exec i { s.executing with script := rest }))

/-- R98, R150: a step on an unrecognized word reports UnknownOpcode with the address and the word and changes nothing else; PC keeps
Addr(a + 2). The slot is the script's next action or the one that follows an empty script (`atSlot`); that and the Scheduler's
bookkeeping (`SlotTaken`) are logs 5, 6 and 8, and the reports are the list of log 10. -/
def Obligations.UnknownOpcodeOnlyReports : Prop :=
  ∀ s : State, s.atSlot → s.run = .running → s.fetchOk → unrecognized s.wordAtPc = true →
    ∃ t, step s = .next t ∧ t.pc.toNat = (s.pc.toNat + 2) % 0x1000 ∧
      t.diag = s.diag ++ oobReport s.pc.toNat (s.pc.toNat + 1) ++ oobReport s.pc.toNat (s.pc.toNat + 2) ++
        [.unknownOpcode s.pc.toNat s.wordAtPc] ∧
      SlotTaken s t ∧ Keeps [.pc, .events, .sched] s t

/-- R151, R152, V3, V4: under `OOB_POLICY = Fault` a slot at PC = 0xFFE ends at the advance and one at PC = 0xFFF at the fetch; the fault
records the state at the start of the slot. The slot is the script's next action or the one that follows an empty script (`atSlot`,
log 5); the recorded state is log 12. -/
def Obligations.TopOfMemoryFaults : Prop :=
  ∀ s : State, s.atSlot → s.run = .running → s.params.oobPolicy = .fault →
    0xFFE ≤ s.pc.toNat → s.pc.toNat ≤ 0xFFF → step s = .fault (.outOfBoundsAddress 0x1000 s.pc.toNat s.slotStart)

/-- R152: under `OOB_POLICY = Fault` BNNN, FX1E, a skip that is taken, FX33, FX55, FX65 and DXYN end in the fault outcome at the
first address above 0xFFF they form, with the instruction's address and the state they started from (so no part of a block
transfer stays done). The instruction address is log 11, the recorded state log 12. -/
def Obligations.OutOfBoundsFaults : Prop :=
  ∀ s : State, s.params.oobPolicy = .fault →
    (∀ nnn : Addr12, 0xFFF < nnn.toNat + (s.reg 0x0#4).toNat →
      exec (.jpV0 nnn) s = .fault (.outOfBoundsAddress (nnn.toNat + (s.reg 0x0#4).toNat) s.instrAddr s)) ∧
    (∀ x : Reg, 0xFFF < s.index.toNat + (s.reg x).toNat →
      exec (.addI x) s = .fault (.outOfBoundsAddress (s.index.toNat + (s.reg x).toNat) s.instrAddr s)) ∧
    (∀ (x y : Reg) (kk : Byte), 0xFFF < s.pc.toNat + 2 →
      exec (if s.reg x = kk then .seImm x kk else .sneImm x kk) s =
        .fault (.outOfBoundsAddress (s.pc.toNat + 2) s.instrAddr s) ∧
      exec (if s.reg x = s.reg y then .seReg x y else .sneReg x y) s =
        .fault (.outOfBoundsAddress (s.pc.toNat + 2) s.instrAddr s) ∧
      exec (if s.pressed (s.reg x) then .skp x else .sknp x) s =
        .fault (.outOfBoundsAddress (s.pc.toNat + 2) s.instrAddr s)) ∧
    (∀ x : Reg, 0xFFF < s.index.toNat + 2 → s.index.toNat ≤ 0xFFF →
      exec (.ldB x) s = .fault (.outOfBoundsAddress 0x1000 s.instrAddr s)) ∧
    (∀ x : Reg, 0xFFF < s.index.toNat + x.toNat → s.index.toNat ≤ 0xFFF →
      exec (.ldMemVx x) s = .fault (.outOfBoundsAddress 0x1000 s.instrAddr s) ∧
      exec (.ldVxMem x) s = .fault (.outOfBoundsAddress 0x1000 s.instrAddr s)) ∧
    (∀ (x y : Reg) (n : Nibble), 0x1000 < s.index.toNat + n.toNat → s.index.toNat ≤ 0xFFF →
      exec (.drw x y n) s = .fault (.outOfBoundsAddress 0x1000 s.instrAddr s))

/-! ## The Scheduler, reset and load -/

/-- R159, R165: a poll copies the keys as a whole; without quit it changes no other part of the machine but the Scheduler's own, and
with quit the Scheduler stops. The poll as an action of a script is log 5, the stop is the flag of log 7, and that the wall-clock
delta goes to both accumulators unless quit is sampled is logs 6 and 25. -/
def Obligations.PollCopiesKeys : Prop :=
  ∀ (s : State) (keys : Keys) (quit : Bool) (dt : Nat) (rest : List HostAct),
    s.stopped = false → s.script = .poll keys quit dt :: rest →
    ∃ t, step s = .next t ∧ t.key = keys ∧ t.stopped = quit ∧ t.script = rest ∧ t.loadOpen = s.loadOpen ∧
      t.accI = s.accI + (if quit then 0 else dt) ∧ t.accF = s.accF + (if quit then 0 else dt) ∧ Keeps [.keys, .sched] s t

/-- R165: once the Scheduler has stopped no slot and no frame tick happens and the state is left as it is, at every later step.
That a step of a stopped machine answers the same state is the model's form of the stop (log 7). -/
def Obligations.StoppedStaysAsItIs : Prop :=
  ∀ (s : State) (k : Nat), s.stopped = true → core.run k s = .next s

/-- R161, R162, R35: a frame tick lowers each timer by 1 if nonzero, raises the redraw strobe with the buffer as it is, and changes no
other state but the Scheduler's own: its action is taken off and it is paid for. R163: none occurs in a key wait under
`FREEZE_FRAME_DURING_WAIT = true`, where the action is taken off and nothing else changes. The tick as an action of a script is
log 5, the accumulator log 6, the outputs are log 10, the tick that is skipped is log 9. -/
def Obligations.FrameTickDecaysTimers : Prop :=
  ∀ (s : State) (rest : List HostAct), s.stopped = false → s.script = .frameTick :: rest →
    ((s.run = .running ∨ s.params.freezeFrameDuringWait = false) →
      ∃ t, step s = .next t ∧ t.dt.toNat = s.dt.toNat - 1 ∧ t.st.toNat = s.st.toNat - 1 ∧
        t.redraws = s.redraws + 1 ∧ t.shown = s.fb ∧
        t.script = rest ∧ t.stopped = false ∧ t.loadOpen = s.loadOpen ∧ t.accI = s.accI ∧
        t.accF = s.accF - s.params.instrRate ∧ Keeps [.delay, .sound, .display, .sched] s t) ∧
    (s.run ≠ .running → s.params.freezeFrameDuringWait = true → step s = .next { s with script := rest })

/-- R173: an image of 1 to 3584 bytes admitted by the load window goes verbatim to 0x200 on, every other byte is unchanged, and no
other state changes, but that the action is taken off the script (log 5) and the load window closes (log 8). -/
def Obligations.LoadPlacesImage : Prop :=
  ∀ (s : State) (image : List Byte) (rest : List HostAct),
    s.stopped = false → s.loadOpen = true → s.script = .load image :: rest → 1 ≤ image.length → image.length ≤ 3584 →
    ∃ t, step s = .next t ∧ (∀ k (h : k < image.length), t.readByte (0x200 + k) = image[k]) ∧
      (∀ a, (a < 0x200 ∨ 0x200 + image.length ≤ a) → t.readByte a = s.readByte a) ∧
      t.script = rest ∧ t.stopped = false ∧ t.loadOpen = false ∧ t.accI = s.accI ∧ t.accF = s.accF ∧
      Keeps [.memory, .sched] s t

/-- R174, R146, R147: an image of no bytes or of more than 3584 is reported and changes no state. That the window stays open
after a rejected image is log 8; the reports are the list of log 10. -/
def Obligations.LoadRejectsBadImage : Prop :=
  ∀ (s : State) (image : List Byte) (rest : List HostAct),
    s.stopped = false → s.loadOpen = true → s.script = .load image :: rest →
    (image.length = 0 → step s = .next { s with script := rest, diag := s.diag ++ [.programEmpty] }) ∧
    (3584 < image.length →
      step s = .next { s with script := rest, diag := s.diag ++ [.programTooLarge image.length] })

/-- R175, U15: after an accepted load, and after any slot, be it an instruction slot or a wait slot, named by the script or not
(`atSlot`, log 5), a load is refused. The window is the flag of log 8; the refusal is the model's form of an action that is not
admitted. -/
def Obligations.LoadOnlyOnceBeforeFirstSlot : Prop :=
  (∀ (s t : State) (image : List Byte) (rest : List HostAct), s.stopped = false → s.loadOpen = true →
    s.script = .load image :: rest → 1 ≤ image.length → image.length ≤ 3584 → step s = .next t → t.loadOpen = false) ∧
  (∀ (s t : State), s.atSlot → step s = .next t → t.loadOpen = false) ∧
  (∀ (s : State) (image : List Byte) (rest : List HostAct), s.stopped = false → s.loadOpen = false →
    s.script = .load image :: rest → step s = .refused .loadNotAdmitted)

/-- R170 to R172, R43: the reset action gives every piece of architectural state its reset value, whatever it held. What reset
leaves alone (parameters, further actions, draws, outputs) is log 17. After it a load is admitted (R175, log 8) and the
Scheduler goes on (R171, log 7). -/
def Obligations.ResetActionReinitializes : Prop :=
  ∀ (s : State) (rest : List HostAct), s.stopped = false → s.script = .reset :: rest →
    ∃ t, step s = .next t ∧ t.pc = 0x200#16 ∧ t.index = 0 ∧ t.sp.val = 0 ∧ t.dt = 0 ∧ t.st = 0 ∧ t.run = .running ∧
      (∀ z, t.reg z = 0) ∧ (∀ k : Nat, k < 16 → t.stack[k]? = some 0) ∧ (∀ r c, Frame.get t.fb r c = false) ∧
      (∀ k, t.keyDown k = false) ∧ t.accI = 0 ∧ t.accF = 0 ∧
      (∀ k (h : k < 80), t.readByte (0x050 + k) = s.params.font[k]) ∧
      (∀ a, (a < 0x050 ∨ 0x0A0 ≤ a) → t.readByte a = 0) ∧ t.script = rest ∧
      t.loadOpen = true ∧ t.stopped = false ∧
      Keeps [.pc, .index, .stack, .delay, .sound, .run, .regs, .screen, .keys, .memory, .sched] s t

/-- R43: the machine after reset, with the font of its parameters in place. That a load is admitted then (R175, log 8) and the
Scheduler goes on (R171, log 7) is deduced. -/
def Obligations.ResetStateValues : Prop :=
  State.reset.pc = 0x200#16 ∧ State.reset.index = 0 ∧ State.reset.sp.val = 0 ∧ State.reset.dt = 0 ∧ State.reset.st = 0 ∧
  State.reset.run = .running ∧ (∀ z, State.reset.reg z = 0) ∧ (∀ k : Nat, k < 16 → State.reset.stack[k]? = some 0) ∧
  (∀ r c, Frame.get State.reset.fb r c = false) ∧ (∀ k, State.reset.keyDown k = false) ∧
  State.reset.accI = 0 ∧ State.reset.accF = 0 ∧ State.reset.loadOpen = true ∧ State.reset.stopped = false ∧
  (∀ k (h : k < 80), State.reset.readByte (0x050 + k) = State.reset.params.font[k]) ∧
  (∀ a, (a < 0x050 ∨ 0x0A0 ≤ a) → State.reset.readByte a = 0)

/-- R185: a slot of a program parked at p, away from the top of memory, leaves all state unchanged but the Scheduler's own bookkeeping
(`SlotTaken`). The slot is the script's next action or the one that follows an empty script (`atSlot`); that and the bookkeeping
are logs 5, 6 and 8. -/
def Obligations.ParkedSlotChangesNothing : Prop :=
  ∀ (s : State) (p : Addr12), s.atSlot → s.parked p → p.toNat < 0xFFE →
    ∃ t, step s = .next t ∧ t.parked p ∧ SlotTaken s t ∧ Keeps [.sched] s t

/-! ## Whole-machine rules -/

/-- R22, R21: the only registers an instruction changes are those it names as written (`writesReg`). -/
def Obligations.OnlyNamedRegistersChange : Prop :=
  ∀ (i : Instr) (s t : State) (z : Reg), exec i s = .next t → t.reg z ≠ s.reg z → writesReg z i = true

/-- R60: the only bytes an instruction changes are those FX33 and FX55 store to (`storesTo`). -/
def Obligations.OnlyStoredBytesChange : Prop :=
  ∀ (i : Instr) (s t : State) (a : Nat), exec i s = .next t → t.readByte a ≠ s.readByte a → storesTo s a i

/-- R30, R29, R36, R33, R34, R38, R24: the stack is changed by 2NNN and 00EE only, the display buffer by 00E0 and DXYN only, DT by FX15
and ST by FX18 only, RUN by FX0A only, I by ANNN, FX1E and FX29 only. -/
def Obligations.EachPartHasItsWriters : Prop :=
  ∀ (i : Instr) (s t : State), exec i s = .next t →
    ((t.stack ≠ s.stack ∨ t.sp ≠ s.sp) → i = .ret ∨ ∃ nnn, i = .call nnn) ∧
    (t.fb ≠ s.fb → i = .cls ∨ ∃ x y n, i = .drw x y n) ∧
    (t.dt ≠ s.dt → ∃ x, i = .ldDtVx x) ∧
    (t.st ≠ s.st → ∃ x, i = .ldStVx x) ∧
    (t.run ≠ s.run → ∃ x, i = .ldVxK x) ∧
    (t.index ≠ s.index → (∃ nnn, i = .ldI nnn) ∨ (∃ x, i = .addI x) ∨ ∃ x, i = .ldF x)

/-- R37, R44, R159: KEY changes only at a poll, or at reset; no instruction and no slot writes it. Polls and resets are actions
of a script (log 5). -/
def Obligations.KeysChangeOnlyAtPoll : Prop :=
  ∀ s t : State, step s = .next t → t.key ≠ s.key →
    (∃ keys quit dt rest, s.script = .poll keys quit dt :: rest) ∨ ∃ rest, s.script = .reset :: rest

/-- R35, R162, R183: a step changes a timer only if it is a reset, which clears both; a frame tick that occurs, which lowers it by 1;
or a Running slot that executes FX15 (for DT) or FX18 (for ST), which sets it from VX. Resets, ticks and slots are those of a
script (`atSlot`, log 5). -/
def Obligations.TimersMoveOnlyByTickOrInstruction : Prop :=
  ∀ s t : State, step s = .next t →
    (t.dt ≠ s.dt →
      (s.stopped = false ∧ (∃ rest, s.script = .reset :: rest) ∧ t.dt = 0) ∨
      (s.stopped = false ∧ (∃ rest, s.script = .frameTick :: rest) ∧
        (s.run = .running ∨ s.params.freezeFrameDuringWait = false) ∧ t.dt.toNat = s.dt.toNat - 1) ∨
      (s.atSlot ∧ s.run = .running ∧ ∃ x, decode s.wordAtPc = .instr (.ldDtVx x) ∧ t.dt = s.reg x)) ∧
    (t.st ≠ s.st →
      (s.stopped = false ∧ (∃ rest, s.script = .reset :: rest) ∧ t.st = 0) ∨
      (s.stopped = false ∧ (∃ rest, s.script = .frameTick :: rest) ∧
        (s.run = .running ∨ s.params.freezeFrameDuringWait = false) ∧ t.st.toNat = s.st.toNat - 1) ∨
      (s.atSlot ∧ s.run = .running ∧ ∃ x, decode s.wordAtPc = .instr (.ldStVx x) ∧ t.st = s.reg x))

/-- R144: under the default policies no condition stops the machine: every step answers a next state with the same parameters
(which the model holds in the state, log 1), but for the one host action the spec does not admit, a late load (log 8). -/
def Obligations.DefaultPoliciesNeverStop : Prop :=
  ∀ s : State, s.params.oobPolicy = .wrap → s.params.stackPolicy = .clamp →
    (∃ t, step s = .next t ∧ t.params = s.params) ∨ (s.loadOpen = false ∧ (∃ image rest, s.script = .load image :: rest) ∧
      step s = .refused .loadNotAdmitted)

/-- R47: reports are only ever added to the diagnostic output. That the reports accumulate in a list is log 10. -/
def Obligations.ReportsOnlyAppend : Prop :=
  ∀ s t : State, step s = .next t → ∃ es, t.diag = s.diag ++ es

/-- R47, R48: no instruction and no other action reads what the outputs have shown: two states that differ only there step alike
but for it. The outputs as fields of the state are log 10. -/
def Obligations.OutputsAreNeverRead : Prop :=
  ∀ s s' : State, s.noOutputs = s'.noOutputs → noOutputs (step s) = noOutputs (step s')

/-- R24, R26, R50: every step keeps the invariant: canonical memory, PC, I and every stack entry in 0x000 to 0xFFF. The
canonical list is the model's form of the memory (log 3). -/
def Obligations.StepKeepsInvariant : Prop :=
  ∀ s t : State, s.Inv → step s = .next t → t.Inv

/-- The invariant holds at reset. The canonical list is the model's form of the memory (log 3). -/
def Obligations.ResetMeetsInvariant : Prop := State.reset.Inv
end

