-- ==== Sys2Proof/Laws/Decode.lean ====
section
/-! SUPPORT. The encoded words and their fields as numbers (R76), the fields of an encoded word, and the bytes of a word read
back (R58). -/

namespace Sys2Proof

/-! ## Words and fields as numbers -/

theorem toNat_concat {m n : Nat} (a : BitVec m) (b : BitVec n) : (a ++ b).toNat = a.toNat * 2 ^ n + b.toNat := by
  rw [BitVec.toNat_append, ← Nat.shiftLeft_add_eq_or_of_lt b.isLt, Nat.shiftLeft_eq]

theorem toNat_encNNN (c : BitVec 4) (nnn : Addr12) : (encNNN c nnn).toNat = c.toNat * 0x1000 + nnn.toNat :=
  toNat_concat c nnn

theorem toNat_encXKK (c : BitVec 4) (x : Reg) (kk : Byte) :
    (encXKK c x kk).toNat = c.toNat * 0x1000 + x.toNat * 0x100 + kk.toNat := by
  have h : (encXKK c x kk).toNat = (c ++ x).toNat * 0x100 + kk.toNat := toNat_concat (c ++ x) kk
  rw [h, toNat_concat c x]
  omega

theorem toNat_encXYN (c : BitVec 4) (x y : Reg) (n : Nibble) :
    (encXYN c x y n).toNat = c.toNat * 0x1000 + x.toNat * 0x100 + y.toNat * 0x10 + n.toNat := by
  have h : (encXYN c x y n).toNat = (c ++ x ++ y).toNat * 0x10 + n.toNat := toNat_concat (c ++ x ++ y) n
  rw [h, toNat_concat (c ++ x) y, toNat_concat c x]
  omega

theorem toNat_fieldC (w : Word) : (fieldC w).toNat = w.toNat / 0x1000 := by
  have := w.isLt
  simp only [fieldC, BitVec.extractLsb'_toNat, Nat.shiftRight_eq_div_pow]
  omega

theorem toNat_fieldX (w : Word) : (fieldX w).toNat = w.toNat / 0x100 % 0x10 := by
  simp only [fieldX, BitVec.extractLsb'_toNat, Nat.shiftRight_eq_div_pow]

theorem toNat_fieldY (w : Word) : (fieldY w).toNat = w.toNat / 0x10 % 0x10 := by
  simp only [fieldY, BitVec.extractLsb'_toNat, Nat.shiftRight_eq_div_pow]

theorem toNat_fieldN (w : Word) : (fieldN w).toNat = w.toNat % 0x10 := by
  simp [fieldN, BitVec.extractLsb'_toNat]

theorem toNat_fieldKK (w : Word) : (fieldKK w).toNat = w.toNat % 0x100 := by
  simp [fieldKK, BitVec.extractLsb'_toNat]

theorem toNat_fieldNNN (w : Word) : (fieldNNN w).toNat = w.toNat % 0x1000 := by
  simp [fieldNNN, BitVec.extractLsb'_toNat]

/-! ## The fields of an encoded word -/

@[simp] theorem fieldC_encNNN (c : BitVec 4) (nnn : Addr12) : fieldC (encNNN c nnn) = c := by
  have := c.isLt
  apply BitVec.eq_of_toNat_eq
  rw [toNat_fieldC, toNat_encNNN]
  omega

@[simp] theorem fieldNNN_encNNN (c : BitVec 4) (nnn : Addr12) : fieldNNN (encNNN c nnn) = nnn := by
  apply BitVec.eq_of_toNat_eq
  rw [toNat_fieldNNN, toNat_encNNN]
  omega

@[simp] theorem fieldC_encXKK (c : BitVec 4) (x : Reg) (kk : Byte) : fieldC (encXKK c x kk) = c := by
  apply BitVec.eq_of_toNat_eq
  rw [toNat_fieldC, toNat_encXKK]
  omega

@[simp] theorem fieldX_encXKK (c : BitVec 4) (x : Reg) (kk : Byte) : fieldX (encXKK c x kk) = x := by
  apply BitVec.eq_of_toNat_eq
  rw [toNat_fieldX, toNat_encXKK]
  omega

@[simp] theorem fieldKK_encXKK (c : BitVec 4) (x : Reg) (kk : Byte) : fieldKK (encXKK c x kk) = kk := by
  apply BitVec.eq_of_toNat_eq
  rw [toNat_fieldKK, toNat_encXKK]
  omega

@[simp] theorem fieldC_encXYN (c : BitVec 4) (x y : Reg) (n : Nibble) : fieldC (encXYN c x y n) = c := by
  apply BitVec.eq_of_toNat_eq
  rw [toNat_fieldC, toNat_encXYN]
  omega

@[simp] theorem fieldX_encXYN (c : BitVec 4) (x y : Reg) (n : Nibble) : fieldX (encXYN c x y n) = x := by
  apply BitVec.eq_of_toNat_eq
  rw [toNat_fieldX, toNat_encXYN]
  omega

@[simp] theorem fieldY_encXYN (c : BitVec 4) (x y : Reg) (n : Nibble) : fieldY (encXYN c x y n) = y := by
  apply BitVec.eq_of_toNat_eq
  rw [toNat_fieldY, toNat_encXYN]
  omega

@[simp] theorem fieldN_encXYN (c : BitVec 4) (x y : Reg) (n : Nibble) : fieldN (encXYN c x y n) = n := by
  apply BitVec.eq_of_toNat_eq
  rw [toNat_fieldN, toNat_encXYN]
  omega

/-- The bytes of a word give the word back (R58). -/
@[simp] theorem wordOfBytes_bytesOfWord (w : Word) : wordOfBytes (bytesOfWord w).1 (bytesOfWord w).2 = w := by
  have h : (wordOfBytes (bytesOfWord w).1 (bytesOfWord w).2).toNat =
      (bytesOfWord w).1.toNat * 0x100 + (bytesOfWord w).2.toNat := toNat_concat ..
  have := w.isLt
  apply BitVec.eq_of_toNat_eq
  rw [h]
  simp only [bytesOfWord, BitVec.extractLsb'_toNat, Nat.shiftRight_eq_div_pow]
  omega

end Sys2Proof
end

