-- ==== Sys2Proof/Laws/Memory.lean ====
section
/-! SUPPORT. Memory as a canonical list: a read after a write gives the value written and leaves every other address alone, and
every operation keeps the canonical form (R50, R57, R65). -/

namespace Sys2Proof.Machine

theorem Memory.lookup_insert (a : Nat) (v : Byte) (m : Memory) (b : Nat) :
    Memory.lookup (Memory.insert a v m) b = if b = a then some v else Memory.lookup m b := by
  induction m with
  | nil => simp [Memory.insert, Memory.lookup]
  | cons c m ih =>
    obtain ⟨d, w⟩ := c
    unfold Memory.insert
    by_cases h1 : a < d
    · by_cases hb : b = a <;> simp [Memory.lookup, h1, hb]
    · by_cases h2 : a = d
      · subst h2
        by_cases hb : b = a <;> simp [Memory.lookup, hb]
      · simp only [h1, h2, if_false, Memory.lookup, ih]
        by_cases hd : b = d
        · simp [hd, Ne.symm h2]
        · simp [hd]

theorem Memory.lookup_filter (a : Nat) (m : Memory) (b : Nat) :
    Memory.lookup (m.filter fun c => c.1 ≠ a) b = if b = a then none else Memory.lookup m b := by
  induction m with
  | nil => simp [Memory.lookup]
  | cons c m ih =>
    obtain ⟨d, w⟩ := c
    by_cases hd : d = a
    · subst hd
      by_cases hb : b = d <;> simp_all [Memory.lookup]
    · by_cases hb : b = d
      · subst hb
        simp [Memory.lookup, hd]
      · simpa [Memory.lookup, List.filter_cons, hd, hb] using ih

/-- A read after a write: the value written at its address, the earlier value elsewhere. -/
theorem Memory.read_write (p : Params) (a : Nat) (v : Byte) (m : Memory) (b : Nat) :
    Memory.read p (Memory.write p a v m) b = if b = a then v else Memory.read p m b := by
  unfold Memory.write Memory.read
  split
  · rename_i h
    simp only [Memory.lookup_filter]
    by_cases hb : b = a <;> simp [hb, h]
  · simp only [Memory.lookup_insert]
    by_cases hb : b = a <;> simp [hb]

theorem State.readByte_writeByte (s : State) (a : Nat) (v : Byte) (b : Nat) :
    (s.writeByte a v).readByte b = if b = a then v else s.readByte b :=
  Memory.read_write s.params a v s.mem b

theorem Memory.mem_insert {a : Nat} {v : Byte} {m : Memory} {c : Host.Cell} (h : c ∈ Memory.insert a v m) :
    c = (a, v) ∨ c ∈ m := by
  induction m with
  | nil => simpa [Memory.insert] using h
  | cons d m ih =>
    unfold Memory.insert at h
    split at h
    · simpa using h
    · split at h
      · rcases List.mem_cons.1 h with rfl | h
        · exact .inl rfl
        · exact .inr (List.mem_cons_of_mem _ h)
      · rcases List.mem_cons.1 h with rfl | h
        · exact .inr List.mem_cons_self
        · exact (ih h).imp_right (List.mem_cons_of_mem _)

theorem Memory.pairwise_insert (a : Nat) (v : Byte) (m : Memory) (h : m.Pairwise fun c d => c.1 < d.1) :
    (Memory.insert a v m).Pairwise fun c d => c.1 < d.1 := by
  induction m with
  | nil => simp [Memory.insert]
  | cons d m ih =>
    rw [List.pairwise_cons] at h
    unfold Memory.insert
    split
    · rename_i hlt
      refine List.pairwise_cons.2 ⟨fun c hc => ?_, List.pairwise_cons.2 h⟩
      rcases List.mem_cons.1 hc with rfl | hc
      · exact hlt
      · exact Nat.lt_trans hlt (h.1 c hc)
    · split
      · rename_i heq
        exact List.pairwise_cons.2 ⟨fun c hc => heq ▸ h.1 c hc, h.2⟩
      · refine List.pairwise_cons.2 ⟨fun c hc => ?_, ih h.2⟩
        rcases Memory.mem_insert hc with rfl | hc
        · show d.1 < a
          omega
        · exact h.1 c hc

/-- A write below 0x1000 keeps the canonical form. -/
theorem Memory.write_wf {p : Params} {a : Nat} {v : Byte} {m : Memory} (ha : a < 0x1000) (h : Memory.wf p m) :
    Memory.wf p (Memory.write p a v m) := by
  unfold Memory.write
  split
  · exact ⟨h.1.filter _, fun c hc => h.2 c (List.mem_filter.1 hc).1⟩
  · rename_i hv
    refine ⟨Memory.pairwise_insert a v m h.1, fun c hc => ?_⟩
    rcases Memory.mem_insert hc with rfl | hc
    · exact ⟨ha, hv⟩
    · exact h.2 c hc

/-- A program load within the address space keeps the canonical form. -/
theorem Memory.writeBytes_wf {p : Params} (bs : List Byte) {a : Nat} {m : Memory} (ha : a + bs.length ≤ 0x1000)
    (h : Memory.wf p m) : Memory.wf p (Memory.writeBytes p a bs m) := by
  induction bs generalizing a with
  | nil => exact h
  | cons b bs ih =>
    simp only [List.length_cons] at ha
    exact Memory.write_wf (by omega) (ih (by omega))

/-- What a program load leaves at every address: the image's byte inside it, the earlier byte outside. -/
theorem Memory.read_writeBytes (p : Params) (bs : List Byte) (a : Nat) (m : Memory) (b : Nat) :
    Memory.read p (Memory.writeBytes p a bs m) b =
      if a ≤ b ∧ b < a + bs.length then (bs[b - a]?).getD 0#8 else Memory.read p m b := by
  induction bs generalizing a with
  | nil =>
    simp [Memory.writeBytes]
  | cons c bs ih =>
    simp only [Memory.writeBytes, Memory.read_write, ih, List.length_cons]
    by_cases hb : b = a
    · subst hb; simp
    · by_cases hi : a + 1 ≤ b ∧ b < a + 1 + bs.length
      · have : b - a = (b - (a + 1)) + 1 := by omega
        rw [if_neg hb, if_pos hi, if_pos (by omega), this, List.getElem?_cons_succ]
      · rw [if_neg hb, if_neg hi, if_neg (by omega)]

theorem Memory.reset_wf (p : Params) : Memory.wf p [] := ⟨List.Pairwise.nil, by simp⟩

end Sys2Proof.Machine
end

