-- ==== Sys2Proof/Laws/State.lean ====
section
/-! SUPPORT. The small lemmas of the state's updates: one per field per update, and one per view (`reg`, `readByte`, …) the
update leaves alone, each true by definition, so that no later proof unfolds a record update. -/

namespace Sys2Proof.Machine

/-- The state after several reports (R14, R47). -/
def State.reports (s : State) (es : List Event) : State := { s with diag := s.diag ++ es }

variable (s : State)

/-! ### writeByte -/

@[simp] theorem State.writeByte_params (a : Nat) (b : Byte) : (s.writeByte a b).params = s.params := rfl
@[simp] theorem State.writeByte_mem (a : Nat) (b : Byte) : (s.writeByte a b).mem = Memory.write s.params a b s.mem := rfl
@[simp] theorem State.writeByte_v (a : Nat) (b : Byte) : (s.writeByte a b).v = s.v := rfl
@[simp] theorem State.writeByte_index (a : Nat) (b : Byte) : (s.writeByte a b).index = s.index := rfl
@[simp] theorem State.writeByte_pc (a : Nat) (b : Byte) : (s.writeByte a b).pc = s.pc := rfl
@[simp] theorem State.writeByte_stack (a : Nat) (b : Byte) : (s.writeByte a b).stack = s.stack := rfl
@[simp] theorem State.writeByte_sp (a : Nat) (b : Byte) : (s.writeByte a b).sp = s.sp := rfl
@[simp] theorem State.writeByte_dt (a : Nat) (b : Byte) : (s.writeByte a b).dt = s.dt := rfl
@[simp] theorem State.writeByte_st (a : Nat) (b : Byte) : (s.writeByte a b).st = s.st := rfl
@[simp] theorem State.writeByte_fb (a : Nat) (b : Byte) : (s.writeByte a b).fb = s.fb := rfl
@[simp] theorem State.writeByte_key (a : Nat) (b : Byte) : (s.writeByte a b).key = s.key := rfl
@[simp] theorem State.writeByte_run (a : Nat) (b : Byte) : (s.writeByte a b).run = s.run := rfl
@[simp] theorem State.writeByte_accI (a : Nat) (b : Byte) : (s.writeByte a b).accI = s.accI := rfl
@[simp] theorem State.writeByte_accF (a : Nat) (b : Byte) : (s.writeByte a b).accF = s.accF := rfl
@[simp] theorem State.writeByte_stopped (a : Nat) (b : Byte) : (s.writeByte a b).stopped = s.stopped := rfl
@[simp] theorem State.writeByte_loadOpen (a : Nat) (b : Byte) : (s.writeByte a b).loadOpen = s.loadOpen := rfl
@[simp] theorem State.writeByte_script (a : Nat) (b : Byte) : (s.writeByte a b).script = s.script := rfl
@[simp] theorem State.writeByte_draws (a : Nat) (b : Byte) : (s.writeByte a b).draws = s.draws := rfl
@[simp] theorem State.writeByte_diag (a : Nat) (b : Byte) : (s.writeByte a b).diag = s.diag := rfl
@[simp] theorem State.writeByte_redraws (a : Nat) (b : Byte) : (s.writeByte a b).redraws = s.redraws := rfl
@[simp] theorem State.writeByte_shown (a : Nat) (b : Byte) : (s.writeByte a b).shown = s.shown := rfl
@[simp] theorem State.writeByte_reg (a : Nat) (b : Byte) (z : Reg) : (s.writeByte a b).reg z = s.reg z := rfl
@[simp] theorem State.writeByte_keyDown (a : Nat) (b : Byte) (z : Nat) : (s.writeByte a b).keyDown z = s.keyDown z := rfl
@[simp] theorem State.writeByte_lowestKey (a : Nat) (b : Byte) : (s.writeByte a b).lowestKey = s.lowestKey := rfl
@[simp] theorem State.writeByte_instrAddr (a : Nat) (b : Byte) : (s.writeByte a b).instrAddr = s.instrAddr := rfl
@[simp] theorem State.writeByte_nextRandom (a : Nat) (b : Byte) : (s.writeByte a b).nextRandom = s.nextRandom := rfl
@[simp] theorem State.writeByte_topEntry (a : Nat) (b : Byte) : (s.writeByte a b).topEntry = s.topEntry := rfl
@[simp] theorem State.writeByte_frozen (a : Nat) (b : Byte) : (s.writeByte a b).frozen = s.frozen := rfl

/-! ### setReg -/

@[simp] theorem State.setReg_params (x : Reg) (b : Byte) : (s.setReg x b).params = s.params := rfl
@[simp] theorem State.setReg_mem (x : Reg) (b : Byte) : (s.setReg x b).mem = s.mem := rfl
@[simp] theorem State.setReg_v (x : Reg) (b : Byte) : (s.setReg x b).v = s.v.set x.toNat b x.isLt := rfl
@[simp] theorem State.setReg_index (x : Reg) (b : Byte) : (s.setReg x b).index = s.index := rfl
@[simp] theorem State.setReg_pc (x : Reg) (b : Byte) : (s.setReg x b).pc = s.pc := rfl
@[simp] theorem State.setReg_stack (x : Reg) (b : Byte) : (s.setReg x b).stack = s.stack := rfl
@[simp] theorem State.setReg_sp (x : Reg) (b : Byte) : (s.setReg x b).sp = s.sp := rfl
@[simp] theorem State.setReg_dt (x : Reg) (b : Byte) : (s.setReg x b).dt = s.dt := rfl
@[simp] theorem State.setReg_st (x : Reg) (b : Byte) : (s.setReg x b).st = s.st := rfl
@[simp] theorem State.setReg_fb (x : Reg) (b : Byte) : (s.setReg x b).fb = s.fb := rfl
@[simp] theorem State.setReg_key (x : Reg) (b : Byte) : (s.setReg x b).key = s.key := rfl
@[simp] theorem State.setReg_run (x : Reg) (b : Byte) : (s.setReg x b).run = s.run := rfl
@[simp] theorem State.setReg_accI (x : Reg) (b : Byte) : (s.setReg x b).accI = s.accI := rfl
@[simp] theorem State.setReg_accF (x : Reg) (b : Byte) : (s.setReg x b).accF = s.accF := rfl
@[simp] theorem State.setReg_stopped (x : Reg) (b : Byte) : (s.setReg x b).stopped = s.stopped := rfl
@[simp] theorem State.setReg_loadOpen (x : Reg) (b : Byte) : (s.setReg x b).loadOpen = s.loadOpen := rfl
@[simp] theorem State.setReg_script (x : Reg) (b : Byte) : (s.setReg x b).script = s.script := rfl
@[simp] theorem State.setReg_draws (x : Reg) (b : Byte) : (s.setReg x b).draws = s.draws := rfl
@[simp] theorem State.setReg_diag (x : Reg) (b : Byte) : (s.setReg x b).diag = s.diag := rfl
@[simp] theorem State.setReg_redraws (x : Reg) (b : Byte) : (s.setReg x b).redraws = s.redraws := rfl
@[simp] theorem State.setReg_shown (x : Reg) (b : Byte) : (s.setReg x b).shown = s.shown := rfl
@[simp] theorem State.setReg_readByte (x : Reg) (b : Byte) (z : Nat) : (s.setReg x b).readByte z = s.readByte z := rfl
@[simp] theorem State.setReg_keyDown (x : Reg) (b : Byte) (z : Nat) : (s.setReg x b).keyDown z = s.keyDown z := rfl
@[simp] theorem State.setReg_lowestKey (x : Reg) (b : Byte) : (s.setReg x b).lowestKey = s.lowestKey := rfl
@[simp] theorem State.setReg_instrAddr (x : Reg) (b : Byte) : (s.setReg x b).instrAddr = s.instrAddr := rfl
@[simp] theorem State.setReg_nextRandom (x : Reg) (b : Byte) : (s.setReg x b).nextRandom = s.nextRandom := rfl
@[simp] theorem State.setReg_topEntry (x : Reg) (b : Byte) : (s.setReg x b).topEntry = s.topEntry := rfl
@[simp] theorem State.setReg_frozen (x : Reg) (b : Byte) : (s.setReg x b).frozen = s.frozen := rfl
@[simp] theorem State.setReg_wordAtPc (x : Reg) (b : Byte) : (s.setReg x b).wordAtPc = s.wordAtPc := rfl

/-! ### setIndex -/

@[simp] theorem State.setIndex_params (e : Nat) : (s.setIndex e).params = s.params := rfl
@[simp] theorem State.setIndex_mem (e : Nat) : (s.setIndex e).mem = s.mem := rfl
@[simp] theorem State.setIndex_v (e : Nat) : (s.setIndex e).v = s.v := rfl
@[simp] theorem State.setIndex_index (e : Nat) : (s.setIndex e).index = BitVec.ofNat 16 e := rfl
@[simp] theorem State.setIndex_pc (e : Nat) : (s.setIndex e).pc = s.pc := rfl
@[simp] theorem State.setIndex_stack (e : Nat) : (s.setIndex e).stack = s.stack := rfl
@[simp] theorem State.setIndex_sp (e : Nat) : (s.setIndex e).sp = s.sp := rfl
@[simp] theorem State.setIndex_dt (e : Nat) : (s.setIndex e).dt = s.dt := rfl
@[simp] theorem State.setIndex_st (e : Nat) : (s.setIndex e).st = s.st := rfl
@[simp] theorem State.setIndex_fb (e : Nat) : (s.setIndex e).fb = s.fb := rfl
@[simp] theorem State.setIndex_key (e : Nat) : (s.setIndex e).key = s.key := rfl
@[simp] theorem State.setIndex_run (e : Nat) : (s.setIndex e).run = s.run := rfl
@[simp] theorem State.setIndex_accI (e : Nat) : (s.setIndex e).accI = s.accI := rfl
@[simp] theorem State.setIndex_accF (e : Nat) : (s.setIndex e).accF = s.accF := rfl
@[simp] theorem State.setIndex_stopped (e : Nat) : (s.setIndex e).stopped = s.stopped := rfl
@[simp] theorem State.setIndex_loadOpen (e : Nat) : (s.setIndex e).loadOpen = s.loadOpen := rfl
@[simp] theorem State.setIndex_script (e : Nat) : (s.setIndex e).script = s.script := rfl
@[simp] theorem State.setIndex_draws (e : Nat) : (s.setIndex e).draws = s.draws := rfl
@[simp] theorem State.setIndex_diag (e : Nat) : (s.setIndex e).diag = s.diag := rfl
@[simp] theorem State.setIndex_redraws (e : Nat) : (s.setIndex e).redraws = s.redraws := rfl
@[simp] theorem State.setIndex_shown (e : Nat) : (s.setIndex e).shown = s.shown := rfl
@[simp] theorem State.setIndex_reg (e : Nat) (z : Reg) : (s.setIndex e).reg z = s.reg z := rfl
@[simp] theorem State.setIndex_readByte (e : Nat) (z : Nat) : (s.setIndex e).readByte z = s.readByte z := rfl
@[simp] theorem State.setIndex_keyDown (e : Nat) (z : Nat) : (s.setIndex e).keyDown z = s.keyDown z := rfl
@[simp] theorem State.setIndex_lowestKey (e : Nat) : (s.setIndex e).lowestKey = s.lowestKey := rfl
@[simp] theorem State.setIndex_instrAddr (e : Nat) : (s.setIndex e).instrAddr = s.instrAddr := rfl
@[simp] theorem State.setIndex_nextRandom (e : Nat) : (s.setIndex e).nextRandom = s.nextRandom := rfl
@[simp] theorem State.setIndex_topEntry (e : Nat) : (s.setIndex e).topEntry = s.topEntry := rfl
@[simp] theorem State.setIndex_frozen (e : Nat) : (s.setIndex e).frozen = s.frozen := rfl
@[simp] theorem State.setIndex_wordAtPc (e : Nat) : (s.setIndex e).wordAtPc = s.wordAtPc := rfl

/-! ### setPc -/

@[simp] theorem State.setPc_params (e : Nat) : (s.setPc e).params = s.params := rfl
@[simp] theorem State.setPc_mem (e : Nat) : (s.setPc e).mem = s.mem := rfl
@[simp] theorem State.setPc_v (e : Nat) : (s.setPc e).v = s.v := rfl
@[simp] theorem State.setPc_index (e : Nat) : (s.setPc e).index = s.index := rfl
@[simp] theorem State.setPc_pc (e : Nat) : (s.setPc e).pc = BitVec.ofNat 16 e := rfl
@[simp] theorem State.setPc_stack (e : Nat) : (s.setPc e).stack = s.stack := rfl
@[simp] theorem State.setPc_sp (e : Nat) : (s.setPc e).sp = s.sp := rfl
@[simp] theorem State.setPc_dt (e : Nat) : (s.setPc e).dt = s.dt := rfl
@[simp] theorem State.setPc_st (e : Nat) : (s.setPc e).st = s.st := rfl
@[simp] theorem State.setPc_fb (e : Nat) : (s.setPc e).fb = s.fb := rfl
@[simp] theorem State.setPc_key (e : Nat) : (s.setPc e).key = s.key := rfl
@[simp] theorem State.setPc_run (e : Nat) : (s.setPc e).run = s.run := rfl
@[simp] theorem State.setPc_accI (e : Nat) : (s.setPc e).accI = s.accI := rfl
@[simp] theorem State.setPc_accF (e : Nat) : (s.setPc e).accF = s.accF := rfl
@[simp] theorem State.setPc_stopped (e : Nat) : (s.setPc e).stopped = s.stopped := rfl
@[simp] theorem State.setPc_loadOpen (e : Nat) : (s.setPc e).loadOpen = s.loadOpen := rfl
@[simp] theorem State.setPc_script (e : Nat) : (s.setPc e).script = s.script := rfl
@[simp] theorem State.setPc_draws (e : Nat) : (s.setPc e).draws = s.draws := rfl
@[simp] theorem State.setPc_diag (e : Nat) : (s.setPc e).diag = s.diag := rfl
@[simp] theorem State.setPc_redraws (e : Nat) : (s.setPc e).redraws = s.redraws := rfl
@[simp] theorem State.setPc_shown (e : Nat) : (s.setPc e).shown = s.shown := rfl
@[simp] theorem State.setPc_reg (e : Nat) (z : Reg) : (s.setPc e).reg z = s.reg z := rfl
@[simp] theorem State.setPc_readByte (e : Nat) (z : Nat) : (s.setPc e).readByte z = s.readByte z := rfl
@[simp] theorem State.setPc_keyDown (e : Nat) (z : Nat) : (s.setPc e).keyDown z = s.keyDown z := rfl
@[simp] theorem State.setPc_lowestKey (e : Nat) : (s.setPc e).lowestKey = s.lowestKey := rfl
@[simp] theorem State.setPc_nextRandom (e : Nat) : (s.setPc e).nextRandom = s.nextRandom := rfl
@[simp] theorem State.setPc_topEntry (e : Nat) : (s.setPc e).topEntry = s.topEntry := rfl
@[simp] theorem State.setPc_frozen (e : Nat) : (s.setPc e).frozen = s.frozen := rfl

/-! ### setDt -/

@[simp] theorem State.setDt_params (b : Byte) : (s.setDt b).params = s.params := rfl
@[simp] theorem State.setDt_mem (b : Byte) : (s.setDt b).mem = s.mem := rfl
@[simp] theorem State.setDt_v (b : Byte) : (s.setDt b).v = s.v := rfl
@[simp] theorem State.setDt_index (b : Byte) : (s.setDt b).index = s.index := rfl
@[simp] theorem State.setDt_pc (b : Byte) : (s.setDt b).pc = s.pc := rfl
@[simp] theorem State.setDt_stack (b : Byte) : (s.setDt b).stack = s.stack := rfl
@[simp] theorem State.setDt_sp (b : Byte) : (s.setDt b).sp = s.sp := rfl
@[simp] theorem State.setDt_dt (b : Byte) : (s.setDt b).dt = b := rfl
@[simp] theorem State.setDt_st (b : Byte) : (s.setDt b).st = s.st := rfl
@[simp] theorem State.setDt_fb (b : Byte) : (s.setDt b).fb = s.fb := rfl
@[simp] theorem State.setDt_key (b : Byte) : (s.setDt b).key = s.key := rfl
@[simp] theorem State.setDt_run (b : Byte) : (s.setDt b).run = s.run := rfl
@[simp] theorem State.setDt_accI (b : Byte) : (s.setDt b).accI = s.accI := rfl
@[simp] theorem State.setDt_accF (b : Byte) : (s.setDt b).accF = s.accF := rfl
@[simp] theorem State.setDt_stopped (b : Byte) : (s.setDt b).stopped = s.stopped := rfl
@[simp] theorem State.setDt_loadOpen (b : Byte) : (s.setDt b).loadOpen = s.loadOpen := rfl
@[simp] theorem State.setDt_script (b : Byte) : (s.setDt b).script = s.script := rfl
@[simp] theorem State.setDt_draws (b : Byte) : (s.setDt b).draws = s.draws := rfl
@[simp] theorem State.setDt_diag (b : Byte) : (s.setDt b).diag = s.diag := rfl
@[simp] theorem State.setDt_redraws (b : Byte) : (s.setDt b).redraws = s.redraws := rfl
@[simp] theorem State.setDt_shown (b : Byte) : (s.setDt b).shown = s.shown := rfl
@[simp] theorem State.setDt_reg (b : Byte) (z : Reg) : (s.setDt b).reg z = s.reg z := rfl
@[simp] theorem State.setDt_readByte (b : Byte) (z : Nat) : (s.setDt b).readByte z = s.readByte z := rfl
@[simp] theorem State.setDt_keyDown (b : Byte) (z : Nat) : (s.setDt b).keyDown z = s.keyDown z := rfl
@[simp] theorem State.setDt_lowestKey (b : Byte) : (s.setDt b).lowestKey = s.lowestKey := rfl
@[simp] theorem State.setDt_instrAddr (b : Byte) : (s.setDt b).instrAddr = s.instrAddr := rfl
@[simp] theorem State.setDt_nextRandom (b : Byte) : (s.setDt b).nextRandom = s.nextRandom := rfl
@[simp] theorem State.setDt_topEntry (b : Byte) : (s.setDt b).topEntry = s.topEntry := rfl
@[simp] theorem State.setDt_frozen (b : Byte) : (s.setDt b).frozen = s.frozen := rfl
@[simp] theorem State.setDt_wordAtPc (b : Byte) : (s.setDt b).wordAtPc = s.wordAtPc := rfl

/-! ### setSt -/

@[simp] theorem State.setSt_params (b : Byte) : (s.setSt b).params = s.params := rfl
@[simp] theorem State.setSt_mem (b : Byte) : (s.setSt b).mem = s.mem := rfl
@[simp] theorem State.setSt_v (b : Byte) : (s.setSt b).v = s.v := rfl
@[simp] theorem State.setSt_index (b : Byte) : (s.setSt b).index = s.index := rfl
@[simp] theorem State.setSt_pc (b : Byte) : (s.setSt b).pc = s.pc := rfl
@[simp] theorem State.setSt_stack (b : Byte) : (s.setSt b).stack = s.stack := rfl
@[simp] theorem State.setSt_sp (b : Byte) : (s.setSt b).sp = s.sp := rfl
@[simp] theorem State.setSt_dt (b : Byte) : (s.setSt b).dt = s.dt := rfl
@[simp] theorem State.setSt_st (b : Byte) : (s.setSt b).st = b := rfl
@[simp] theorem State.setSt_fb (b : Byte) : (s.setSt b).fb = s.fb := rfl
@[simp] theorem State.setSt_key (b : Byte) : (s.setSt b).key = s.key := rfl
@[simp] theorem State.setSt_run (b : Byte) : (s.setSt b).run = s.run := rfl
@[simp] theorem State.setSt_accI (b : Byte) : (s.setSt b).accI = s.accI := rfl
@[simp] theorem State.setSt_accF (b : Byte) : (s.setSt b).accF = s.accF := rfl
@[simp] theorem State.setSt_stopped (b : Byte) : (s.setSt b).stopped = s.stopped := rfl
@[simp] theorem State.setSt_loadOpen (b : Byte) : (s.setSt b).loadOpen = s.loadOpen := rfl
@[simp] theorem State.setSt_script (b : Byte) : (s.setSt b).script = s.script := rfl
@[simp] theorem State.setSt_draws (b : Byte) : (s.setSt b).draws = s.draws := rfl
@[simp] theorem State.setSt_diag (b : Byte) : (s.setSt b).diag = s.diag := rfl
@[simp] theorem State.setSt_redraws (b : Byte) : (s.setSt b).redraws = s.redraws := rfl
@[simp] theorem State.setSt_shown (b : Byte) : (s.setSt b).shown = s.shown := rfl
@[simp] theorem State.setSt_reg (b : Byte) (z : Reg) : (s.setSt b).reg z = s.reg z := rfl
@[simp] theorem State.setSt_readByte (b : Byte) (z : Nat) : (s.setSt b).readByte z = s.readByte z := rfl
@[simp] theorem State.setSt_keyDown (b : Byte) (z : Nat) : (s.setSt b).keyDown z = s.keyDown z := rfl
@[simp] theorem State.setSt_lowestKey (b : Byte) : (s.setSt b).lowestKey = s.lowestKey := rfl
@[simp] theorem State.setSt_instrAddr (b : Byte) : (s.setSt b).instrAddr = s.instrAddr := rfl
@[simp] theorem State.setSt_nextRandom (b : Byte) : (s.setSt b).nextRandom = s.nextRandom := rfl
@[simp] theorem State.setSt_topEntry (b : Byte) : (s.setSt b).topEntry = s.topEntry := rfl
@[simp] theorem State.setSt_frozen (b : Byte) : (s.setSt b).frozen = s.frozen := rfl
@[simp] theorem State.setSt_wordAtPc (b : Byte) : (s.setSt b).wordAtPc = s.wordAtPc := rfl

/-! ### setRun -/

@[simp] theorem State.setRun_params (r : Run) : (s.setRun r).params = s.params := rfl
@[simp] theorem State.setRun_mem (r : Run) : (s.setRun r).mem = s.mem := rfl
@[simp] theorem State.setRun_v (r : Run) : (s.setRun r).v = s.v := rfl
@[simp] theorem State.setRun_index (r : Run) : (s.setRun r).index = s.index := rfl
@[simp] theorem State.setRun_pc (r : Run) : (s.setRun r).pc = s.pc := rfl
@[simp] theorem State.setRun_stack (r : Run) : (s.setRun r).stack = s.stack := rfl
@[simp] theorem State.setRun_sp (r : Run) : (s.setRun r).sp = s.sp := rfl
@[simp] theorem State.setRun_dt (r : Run) : (s.setRun r).dt = s.dt := rfl
@[simp] theorem State.setRun_st (r : Run) : (s.setRun r).st = s.st := rfl
@[simp] theorem State.setRun_fb (r : Run) : (s.setRun r).fb = s.fb := rfl
@[simp] theorem State.setRun_key (r : Run) : (s.setRun r).key = s.key := rfl
@[simp] theorem State.setRun_run (r : Run) : (s.setRun r).run = r := rfl
@[simp] theorem State.setRun_accI (r : Run) : (s.setRun r).accI = s.accI := rfl
@[simp] theorem State.setRun_accF (r : Run) : (s.setRun r).accF = s.accF := rfl
@[simp] theorem State.setRun_stopped (r : Run) : (s.setRun r).stopped = s.stopped := rfl
@[simp] theorem State.setRun_loadOpen (r : Run) : (s.setRun r).loadOpen = s.loadOpen := rfl
@[simp] theorem State.setRun_script (r : Run) : (s.setRun r).script = s.script := rfl
@[simp] theorem State.setRun_draws (r : Run) : (s.setRun r).draws = s.draws := rfl
@[simp] theorem State.setRun_diag (r : Run) : (s.setRun r).diag = s.diag := rfl
@[simp] theorem State.setRun_redraws (r : Run) : (s.setRun r).redraws = s.redraws := rfl
@[simp] theorem State.setRun_shown (r : Run) : (s.setRun r).shown = s.shown := rfl
@[simp] theorem State.setRun_reg (r : Run) (z : Reg) : (s.setRun r).reg z = s.reg z := rfl
@[simp] theorem State.setRun_readByte (r : Run) (z : Nat) : (s.setRun r).readByte z = s.readByte z := rfl
@[simp] theorem State.setRun_keyDown (r : Run) (z : Nat) : (s.setRun r).keyDown z = s.keyDown z := rfl
@[simp] theorem State.setRun_lowestKey (r : Run) : (s.setRun r).lowestKey = s.lowestKey := rfl
@[simp] theorem State.setRun_instrAddr (r : Run) : (s.setRun r).instrAddr = s.instrAddr := rfl
@[simp] theorem State.setRun_nextRandom (r : Run) : (s.setRun r).nextRandom = s.nextRandom := rfl
@[simp] theorem State.setRun_topEntry (r : Run) : (s.setRun r).topEntry = s.topEntry := rfl
@[simp] theorem State.setRun_wordAtPc (r : Run) : (s.setRun r).wordAtPc = s.wordAtPc := rfl

/-! ### setFb -/

@[simp] theorem State.setFb_params (f : Frame) : (s.setFb f).params = s.params := rfl
@[simp] theorem State.setFb_mem (f : Frame) : (s.setFb f).mem = s.mem := rfl
@[simp] theorem State.setFb_v (f : Frame) : (s.setFb f).v = s.v := rfl
@[simp] theorem State.setFb_index (f : Frame) : (s.setFb f).index = s.index := rfl
@[simp] theorem State.setFb_pc (f : Frame) : (s.setFb f).pc = s.pc := rfl
@[simp] theorem State.setFb_stack (f : Frame) : (s.setFb f).stack = s.stack := rfl
@[simp] theorem State.setFb_sp (f : Frame) : (s.setFb f).sp = s.sp := rfl
@[simp] theorem State.setFb_dt (f : Frame) : (s.setFb f).dt = s.dt := rfl
@[simp] theorem State.setFb_st (f : Frame) : (s.setFb f).st = s.st := rfl
@[simp] theorem State.setFb_fb (f : Frame) : (s.setFb f).fb = f := rfl
@[simp] theorem State.setFb_key (f : Frame) : (s.setFb f).key = s.key := rfl
@[simp] theorem State.setFb_run (f : Frame) : (s.setFb f).run = s.run := rfl
@[simp] theorem State.setFb_accI (f : Frame) : (s.setFb f).accI = s.accI := rfl
@[simp] theorem State.setFb_accF (f : Frame) : (s.setFb f).accF = s.accF := rfl
@[simp] theorem State.setFb_stopped (f : Frame) : (s.setFb f).stopped = s.stopped := rfl
@[simp] theorem State.setFb_loadOpen (f : Frame) : (s.setFb f).loadOpen = s.loadOpen := rfl
@[simp] theorem State.setFb_script (f : Frame) : (s.setFb f).script = s.script := rfl
@[simp] theorem State.setFb_draws (f : Frame) : (s.setFb f).draws = s.draws := rfl
@[simp] theorem State.setFb_diag (f : Frame) : (s.setFb f).diag = s.diag := rfl
@[simp] theorem State.setFb_redraws (f : Frame) : (s.setFb f).redraws = s.redraws := rfl
@[simp] theorem State.setFb_shown (f : Frame) : (s.setFb f).shown = s.shown := rfl
@[simp] theorem State.setFb_reg (f : Frame) (z : Reg) : (s.setFb f).reg z = s.reg z := rfl
@[simp] theorem State.setFb_readByte (f : Frame) (z : Nat) : (s.setFb f).readByte z = s.readByte z := rfl
@[simp] theorem State.setFb_keyDown (f : Frame) (z : Nat) : (s.setFb f).keyDown z = s.keyDown z := rfl
@[simp] theorem State.setFb_lowestKey (f : Frame) : (s.setFb f).lowestKey = s.lowestKey := rfl
@[simp] theorem State.setFb_instrAddr (f : Frame) : (s.setFb f).instrAddr = s.instrAddr := rfl
@[simp] theorem State.setFb_nextRandom (f : Frame) : (s.setFb f).nextRandom = s.nextRandom := rfl
@[simp] theorem State.setFb_topEntry (f : Frame) : (s.setFb f).topEntry = s.topEntry := rfl
@[simp] theorem State.setFb_frozen (f : Frame) : (s.setFb f).frozen = s.frozen := rfl
@[simp] theorem State.setFb_wordAtPc (f : Frame) : (s.setFb f).wordAtPc = s.wordAtPc := rfl

/-! ### takeDraw -/

@[simp] theorem State.takeDraw_params : (s.takeDraw).params = s.params := rfl
@[simp] theorem State.takeDraw_mem : (s.takeDraw).mem = s.mem := rfl
@[simp] theorem State.takeDraw_v : (s.takeDraw).v = s.v := rfl
@[simp] theorem State.takeDraw_index : (s.takeDraw).index = s.index := rfl
@[simp] theorem State.takeDraw_pc : (s.takeDraw).pc = s.pc := rfl
@[simp] theorem State.takeDraw_stack : (s.takeDraw).stack = s.stack := rfl
@[simp] theorem State.takeDraw_sp : (s.takeDraw).sp = s.sp := rfl
@[simp] theorem State.takeDraw_dt : (s.takeDraw).dt = s.dt := rfl
@[simp] theorem State.takeDraw_st : (s.takeDraw).st = s.st := rfl
@[simp] theorem State.takeDraw_fb : (s.takeDraw).fb = s.fb := rfl
@[simp] theorem State.takeDraw_key : (s.takeDraw).key = s.key := rfl
@[simp] theorem State.takeDraw_run : (s.takeDraw).run = s.run := rfl
@[simp] theorem State.takeDraw_accI : (s.takeDraw).accI = s.accI := rfl
@[simp] theorem State.takeDraw_accF : (s.takeDraw).accF = s.accF := rfl
@[simp] theorem State.takeDraw_stopped : (s.takeDraw).stopped = s.stopped := rfl
@[simp] theorem State.takeDraw_loadOpen : (s.takeDraw).loadOpen = s.loadOpen := rfl
@[simp] theorem State.takeDraw_script : (s.takeDraw).script = s.script := rfl
@[simp] theorem State.takeDraw_draws : (s.takeDraw).draws = s.draws + 1 := rfl
@[simp] theorem State.takeDraw_diag : (s.takeDraw).diag = s.diag := rfl
@[simp] theorem State.takeDraw_redraws : (s.takeDraw).redraws = s.redraws := rfl
@[simp] theorem State.takeDraw_shown : (s.takeDraw).shown = s.shown := rfl
@[simp] theorem State.takeDraw_reg (z : Reg) : (s.takeDraw).reg z = s.reg z := rfl
@[simp] theorem State.takeDraw_readByte (z : Nat) : (s.takeDraw).readByte z = s.readByte z := rfl
@[simp] theorem State.takeDraw_keyDown (z : Nat) : (s.takeDraw).keyDown z = s.keyDown z := rfl
@[simp] theorem State.takeDraw_lowestKey : (s.takeDraw).lowestKey = s.lowestKey := rfl
@[simp] theorem State.takeDraw_instrAddr : (s.takeDraw).instrAddr = s.instrAddr := rfl
@[simp] theorem State.takeDraw_topEntry : (s.takeDraw).topEntry = s.topEntry := rfl
@[simp] theorem State.takeDraw_frozen : (s.takeDraw).frozen = s.frozen := rfl
@[simp] theorem State.takeDraw_wordAtPc : (s.takeDraw).wordAtPc = s.wordAtPc := rfl

/-! ### report -/

@[simp] theorem State.report_params (e : Event) : (s.report e).params = s.params := rfl
@[simp] theorem State.report_mem (e : Event) : (s.report e).mem = s.mem := rfl
@[simp] theorem State.report_v (e : Event) : (s.report e).v = s.v := rfl
@[simp] theorem State.report_index (e : Event) : (s.report e).index = s.index := rfl
@[simp] theorem State.report_pc (e : Event) : (s.report e).pc = s.pc := rfl
@[simp] theorem State.report_stack (e : Event) : (s.report e).stack = s.stack := rfl
@[simp] theorem State.report_sp (e : Event) : (s.report e).sp = s.sp := rfl
@[simp] theorem State.report_dt (e : Event) : (s.report e).dt = s.dt := rfl
@[simp] theorem State.report_st (e : Event) : (s.report e).st = s.st := rfl
@[simp] theorem State.report_fb (e : Event) : (s.report e).fb = s.fb := rfl
@[simp] theorem State.report_key (e : Event) : (s.report e).key = s.key := rfl
@[simp] theorem State.report_run (e : Event) : (s.report e).run = s.run := rfl
@[simp] theorem State.report_accI (e : Event) : (s.report e).accI = s.accI := rfl
@[simp] theorem State.report_accF (e : Event) : (s.report e).accF = s.accF := rfl
@[simp] theorem State.report_stopped (e : Event) : (s.report e).stopped = s.stopped := rfl
@[simp] theorem State.report_loadOpen (e : Event) : (s.report e).loadOpen = s.loadOpen := rfl
@[simp] theorem State.report_script (e : Event) : (s.report e).script = s.script := rfl
@[simp] theorem State.report_draws (e : Event) : (s.report e).draws = s.draws := rfl
@[simp] theorem State.report_diag (e : Event) : (s.report e).diag = s.diag ++ [e] := rfl
@[simp] theorem State.report_redraws (e : Event) : (s.report e).redraws = s.redraws := rfl
@[simp] theorem State.report_shown (e : Event) : (s.report e).shown = s.shown := rfl
@[simp] theorem State.report_reg (e : Event) (z : Reg) : (s.report e).reg z = s.reg z := rfl
@[simp] theorem State.report_readByte (e : Event) (z : Nat) : (s.report e).readByte z = s.readByte z := rfl
@[simp] theorem State.report_keyDown (e : Event) (z : Nat) : (s.report e).keyDown z = s.keyDown z := rfl
@[simp] theorem State.report_lowestKey (e : Event) : (s.report e).lowestKey = s.lowestKey := rfl
@[simp] theorem State.report_instrAddr (e : Event) : (s.report e).instrAddr = s.instrAddr := rfl
@[simp] theorem State.report_nextRandom (e : Event) : (s.report e).nextRandom = s.nextRandom := rfl
@[simp] theorem State.report_topEntry (e : Event) : (s.report e).topEntry = s.topEntry := rfl
@[simp] theorem State.report_frozen (e : Event) : (s.report e).frozen = s.frozen := rfl
@[simp] theorem State.report_wordAtPc (e : Event) : (s.report e).wordAtPc = s.wordAtPc := rfl

/-! ### reports -/

@[simp] theorem State.reports_params (es : List Event) : (s.reports es).params = s.params := rfl
@[simp] theorem State.reports_mem (es : List Event) : (s.reports es).mem = s.mem := rfl
@[simp] theorem State.reports_v (es : List Event) : (s.reports es).v = s.v := rfl
@[simp] theorem State.reports_index (es : List Event) : (s.reports es).index = s.index := rfl
@[simp] theorem State.reports_pc (es : List Event) : (s.reports es).pc = s.pc := rfl
@[simp] theorem State.reports_stack (es : List Event) : (s.reports es).stack = s.stack := rfl
@[simp] theorem State.reports_sp (es : List Event) : (s.reports es).sp = s.sp := rfl
@[simp] theorem State.reports_dt (es : List Event) : (s.reports es).dt = s.dt := rfl
@[simp] theorem State.reports_st (es : List Event) : (s.reports es).st = s.st := rfl
@[simp] theorem State.reports_fb (es : List Event) : (s.reports es).fb = s.fb := rfl
@[simp] theorem State.reports_key (es : List Event) : (s.reports es).key = s.key := rfl
@[simp] theorem State.reports_run (es : List Event) : (s.reports es).run = s.run := rfl
@[simp] theorem State.reports_accI (es : List Event) : (s.reports es).accI = s.accI := rfl
@[simp] theorem State.reports_accF (es : List Event) : (s.reports es).accF = s.accF := rfl
@[simp] theorem State.reports_stopped (es : List Event) : (s.reports es).stopped = s.stopped := rfl
@[simp] theorem State.reports_loadOpen (es : List Event) : (s.reports es).loadOpen = s.loadOpen := rfl
@[simp] theorem State.reports_script (es : List Event) : (s.reports es).script = s.script := rfl
@[simp] theorem State.reports_draws (es : List Event) : (s.reports es).draws = s.draws := rfl
@[simp] theorem State.reports_diag (es : List Event) : (s.reports es).diag = s.diag ++ es := rfl
@[simp] theorem State.reports_redraws (es : List Event) : (s.reports es).redraws = s.redraws := rfl
@[simp] theorem State.reports_shown (es : List Event) : (s.reports es).shown = s.shown := rfl
@[simp] theorem State.reports_reg (es : List Event) (z : Reg) : (s.reports es).reg z = s.reg z := rfl
@[simp] theorem State.reports_readByte (es : List Event) (z : Nat) : (s.reports es).readByte z = s.readByte z := rfl
@[simp] theorem State.reports_keyDown (es : List Event) (z : Nat) : (s.reports es).keyDown z = s.keyDown z := rfl
@[simp] theorem State.reports_lowestKey (es : List Event) : (s.reports es).lowestKey = s.lowestKey := rfl
@[simp] theorem State.reports_instrAddr (es : List Event) : (s.reports es).instrAddr = s.instrAddr := rfl
@[simp] theorem State.reports_nextRandom (es : List Event) : (s.reports es).nextRandom = s.nextRandom := rfl
@[simp] theorem State.reports_topEntry (es : List Event) : (s.reports es).topEntry = s.topEntry := rfl
@[simp] theorem State.reports_frozen (es : List Event) : (s.reports es).frozen = s.frozen := rfl
@[simp] theorem State.reports_wordAtPc (es : List Event) : (s.reports es).wordAtPc = s.wordAtPc := rfl

/-! ### setResultAndFlag -/

@[simp] theorem State.setResultAndFlag_params (x : Reg) (b : Byte) (f : Bool) : (s.setResultAndFlag x b f).params = s.params := rfl
@[simp] theorem State.setResultAndFlag_mem (x : Reg) (b : Byte) (f : Bool) : (s.setResultAndFlag x b f).mem = s.mem := rfl
@[simp] theorem State.setResultAndFlag_v (x : Reg) (b : Byte) (f : Bool) : (s.setResultAndFlag x b f).v = (s.v.set x.toNat b x.isLt).set vF.toNat (flagByte f) vF.isLt := rfl
@[simp] theorem State.setResultAndFlag_index (x : Reg) (b : Byte) (f : Bool) : (s.setResultAndFlag x b f).index = s.index := rfl
@[simp] theorem State.setResultAndFlag_pc (x : Reg) (b : Byte) (f : Bool) : (s.setResultAndFlag x b f).pc = s.pc := rfl
@[simp] theorem State.setResultAndFlag_stack (x : Reg) (b : Byte) (f : Bool) : (s.setResultAndFlag x b f).stack = s.stack := rfl
@[simp] theorem State.setResultAndFlag_sp (x : Reg) (b : Byte) (f : Bool) : (s.setResultAndFlag x b f).sp = s.sp := rfl
@[simp] theorem State.setResultAndFlag_dt (x : Reg) (b : Byte) (f : Bool) : (s.setResultAndFlag x b f).dt = s.dt := rfl
@[simp] theorem State.setResultAndFlag_st (x : Reg) (b : Byte) (f : Bool) : (s.setResultAndFlag x b f).st = s.st := rfl
@[simp] theorem State.setResultAndFlag_fb (x : Reg) (b : Byte) (f : Bool) : (s.setResultAndFlag x b f).fb = s.fb := rfl
@[simp] theorem State.setResultAndFlag_key (x : Reg) (b : Byte) (f : Bool) : (s.setResultAndFlag x b f).key = s.key := rfl
@[simp] theorem State.setResultAndFlag_run (x : Reg) (b : Byte) (f : Bool) : (s.setResultAndFlag x b f).run = s.run := rfl
@[simp] theorem State.setResultAndFlag_accI (x : Reg) (b : Byte) (f : Bool) : (s.setResultAndFlag x b f).accI = s.accI := rfl
@[simp] theorem State.setResultAndFlag_accF (x : Reg) (b : Byte) (f : Bool) : (s.setResultAndFlag x b f).accF = s.accF := rfl
@[simp] theorem State.setResultAndFlag_stopped (x : Reg) (b : Byte) (f : Bool) : (s.setResultAndFlag x b f).stopped = s.stopped := rfl
@[simp] theorem State.setResultAndFlag_loadOpen (x : Reg) (b : Byte) (f : Bool) : (s.setResultAndFlag x b f).loadOpen = s.loadOpen := rfl
@[simp] theorem State.setResultAndFlag_script (x : Reg) (b : Byte) (f : Bool) : (s.setResultAndFlag x b f).script = s.script := rfl
@[simp] theorem State.setResultAndFlag_draws (x : Reg) (b : Byte) (f : Bool) : (s.setResultAndFlag x b f).draws = s.draws := rfl
@[simp] theorem State.setResultAndFlag_diag (x : Reg) (b : Byte) (f : Bool) : (s.setResultAndFlag x b f).diag = s.diag := rfl
@[simp] theorem State.setResultAndFlag_redraws (x : Reg) (b : Byte) (f : Bool) : (s.setResultAndFlag x b f).redraws = s.redraws := rfl
@[simp] theorem State.setResultAndFlag_shown (x : Reg) (b : Byte) (f : Bool) : (s.setResultAndFlag x b f).shown = s.shown := rfl
@[simp] theorem State.setResultAndFlag_readByte (x : Reg) (b : Byte) (f : Bool) (z : Nat) : (s.setResultAndFlag x b f).readByte z = s.readByte z := rfl
@[simp] theorem State.setResultAndFlag_keyDown (x : Reg) (b : Byte) (f : Bool) (z : Nat) : (s.setResultAndFlag x b f).keyDown z = s.keyDown z := rfl
@[simp] theorem State.setResultAndFlag_lowestKey (x : Reg) (b : Byte) (f : Bool) : (s.setResultAndFlag x b f).lowestKey = s.lowestKey := rfl
@[simp] theorem State.setResultAndFlag_instrAddr (x : Reg) (b : Byte) (f : Bool) : (s.setResultAndFlag x b f).instrAddr = s.instrAddr := rfl
@[simp] theorem State.setResultAndFlag_nextRandom (x : Reg) (b : Byte) (f : Bool) : (s.setResultAndFlag x b f).nextRandom = s.nextRandom := rfl
@[simp] theorem State.setResultAndFlag_topEntry (x : Reg) (b : Byte) (f : Bool) : (s.setResultAndFlag x b f).topEntry = s.topEntry := rfl
@[simp] theorem State.setResultAndFlag_frozen (x : Reg) (b : Byte) (f : Bool) : (s.setResultAndFlag x b f).frozen = s.frozen := rfl
@[simp] theorem State.setResultAndFlag_wordAtPc (x : Reg) (b : Byte) (f : Bool) : (s.setResultAndFlag x b f).wordAtPc = s.wordAtPc := rfl

/-! ### executing -/

@[simp] theorem State.executing_params : (s.executing).params = s.params := rfl
@[simp] theorem State.executing_mem : (s.executing).mem = s.mem := rfl
@[simp] theorem State.executing_v : (s.executing).v = s.v := rfl
@[simp] theorem State.executing_index : (s.executing).index = s.index := rfl
@[simp] theorem State.executing_pc : (s.executing).pc = BitVec.ofNat 16 ((s.pc.toNat + 2) % 0x1000) := rfl
@[simp] theorem State.executing_stack : (s.executing).stack = s.stack := rfl
@[simp] theorem State.executing_sp : (s.executing).sp = s.sp := rfl
@[simp] theorem State.executing_dt : (s.executing).dt = s.dt := rfl
@[simp] theorem State.executing_st : (s.executing).st = s.st := rfl
@[simp] theorem State.executing_fb : (s.executing).fb = s.fb := rfl
@[simp] theorem State.executing_key : (s.executing).key = s.key := rfl
@[simp] theorem State.executing_run : (s.executing).run = s.run := rfl
@[simp] theorem State.executing_accI : (s.executing).accI = s.accI - s.params.frameRate := rfl
@[simp] theorem State.executing_accF : (s.executing).accF = s.accF := rfl
@[simp] theorem State.executing_stopped : (s.executing).stopped = s.stopped := rfl
@[simp] theorem State.executing_loadOpen : (s.executing).loadOpen = false := rfl
@[simp] theorem State.executing_script : (s.executing).script = s.script := rfl
@[simp] theorem State.executing_draws : (s.executing).draws = s.draws := rfl
@[simp] theorem State.executing_diag : (s.executing).diag = s.diag ++ oobReport s.pc.toNat (s.pc.toNat + 1) ++ oobReport s.pc.toNat (s.pc.toNat + 2) := rfl
@[simp] theorem State.executing_redraws : (s.executing).redraws = s.redraws := rfl
@[simp] theorem State.executing_shown : (s.executing).shown = s.shown := rfl
@[simp] theorem State.executing_reg (z : Reg) : (s.executing).reg z = s.reg z := rfl
@[simp] theorem State.executing_readByte (z : Nat) : (s.executing).readByte z = s.readByte z := rfl
@[simp] theorem State.executing_keyDown (z : Nat) : (s.executing).keyDown z = s.keyDown z := rfl
@[simp] theorem State.executing_lowestKey : (s.executing).lowestKey = s.lowestKey := rfl
@[simp] theorem State.executing_nextRandom : (s.executing).nextRandom = s.nextRandom := rfl
@[simp] theorem State.executing_topEntry : (s.executing).topEntry = s.topEntry := rfl
@[simp] theorem State.executing_frozen : (s.executing).frozen = s.frozen := rfl

/-! ### pushEntry -/

@[simp] theorem State.pushEntry_params (w : Word) (h : s.sp.val < 16) : (s.pushEntry w h).params = s.params := rfl
@[simp] theorem State.pushEntry_mem (w : Word) (h : s.sp.val < 16) : (s.pushEntry w h).mem = s.mem := rfl
@[simp] theorem State.pushEntry_v (w : Word) (h : s.sp.val < 16) : (s.pushEntry w h).v = s.v := rfl
@[simp] theorem State.pushEntry_index (w : Word) (h : s.sp.val < 16) : (s.pushEntry w h).index = s.index := rfl
@[simp] theorem State.pushEntry_pc (w : Word) (h : s.sp.val < 16) : (s.pushEntry w h).pc = s.pc := rfl
@[simp] theorem State.pushEntry_stack (w : Word) (h : s.sp.val < 16) : (s.pushEntry w h).stack = s.stack.set s.sp.val w h := rfl
@[simp] theorem State.pushEntry_sp (w : Word) (h : s.sp.val < 16) : (s.pushEntry w h).sp = ⟨s.sp.val + 1, Nat.succ_lt_succ h⟩ := rfl
@[simp] theorem State.pushEntry_dt (w : Word) (h : s.sp.val < 16) : (s.pushEntry w h).dt = s.dt := rfl
@[simp] theorem State.pushEntry_st (w : Word) (h : s.sp.val < 16) : (s.pushEntry w h).st = s.st := rfl
@[simp] theorem State.pushEntry_fb (w : Word) (h : s.sp.val < 16) : (s.pushEntry w h).fb = s.fb := rfl
@[simp] theorem State.pushEntry_key (w : Word) (h : s.sp.val < 16) : (s.pushEntry w h).key = s.key := rfl
@[simp] theorem State.pushEntry_run (w : Word) (h : s.sp.val < 16) : (s.pushEntry w h).run = s.run := rfl
@[simp] theorem State.pushEntry_accI (w : Word) (h : s.sp.val < 16) : (s.pushEntry w h).accI = s.accI := rfl
@[simp] theorem State.pushEntry_accF (w : Word) (h : s.sp.val < 16) : (s.pushEntry w h).accF = s.accF := rfl
@[simp] theorem State.pushEntry_stopped (w : Word) (h : s.sp.val < 16) : (s.pushEntry w h).stopped = s.stopped := rfl
@[simp] theorem State.pushEntry_loadOpen (w : Word) (h : s.sp.val < 16) : (s.pushEntry w h).loadOpen = s.loadOpen := rfl
@[simp] theorem State.pushEntry_script (w : Word) (h : s.sp.val < 16) : (s.pushEntry w h).script = s.script := rfl
@[simp] theorem State.pushEntry_draws (w : Word) (h : s.sp.val < 16) : (s.pushEntry w h).draws = s.draws := rfl
@[simp] theorem State.pushEntry_diag (w : Word) (h : s.sp.val < 16) : (s.pushEntry w h).diag = s.diag := rfl
@[simp] theorem State.pushEntry_redraws (w : Word) (h : s.sp.val < 16) : (s.pushEntry w h).redraws = s.redraws := rfl
@[simp] theorem State.pushEntry_shown (w : Word) (h : s.sp.val < 16) : (s.pushEntry w h).shown = s.shown := rfl
@[simp] theorem State.pushEntry_reg (w : Word) (h : s.sp.val < 16) (z : Reg) : (s.pushEntry w h).reg z = s.reg z := rfl
@[simp] theorem State.pushEntry_readByte (w : Word) (h : s.sp.val < 16) (z : Nat) : (s.pushEntry w h).readByte z = s.readByte z := rfl
@[simp] theorem State.pushEntry_keyDown (w : Word) (h : s.sp.val < 16) (z : Nat) : (s.pushEntry w h).keyDown z = s.keyDown z := rfl
@[simp] theorem State.pushEntry_lowestKey (w : Word) (h : s.sp.val < 16) : (s.pushEntry w h).lowestKey = s.lowestKey := rfl
@[simp] theorem State.pushEntry_instrAddr (w : Word) (h : s.sp.val < 16) : (s.pushEntry w h).instrAddr = s.instrAddr := rfl
@[simp] theorem State.pushEntry_nextRandom (w : Word) (h : s.sp.val < 16) : (s.pushEntry w h).nextRandom = s.nextRandom := rfl
@[simp] theorem State.pushEntry_frozen (w : Word) (h : s.sp.val < 16) : (s.pushEntry w h).frozen = s.frozen := rfl
@[simp] theorem State.pushEntry_wordAtPc (w : Word) (h : s.sp.val < 16) : (s.pushEntry w h).wordAtPc = s.wordAtPc := rfl

/-! ### popEntry -/

@[simp] theorem State.popEntry_params : (s.popEntry).params = s.params := rfl
@[simp] theorem State.popEntry_mem : (s.popEntry).mem = s.mem := rfl
@[simp] theorem State.popEntry_v : (s.popEntry).v = s.v := rfl
@[simp] theorem State.popEntry_index : (s.popEntry).index = s.index := rfl
@[simp] theorem State.popEntry_pc : (s.popEntry).pc = s.pc := rfl
@[simp] theorem State.popEntry_stack : (s.popEntry).stack = s.stack := rfl
@[simp] theorem State.popEntry_sp : (s.popEntry).sp = ⟨s.sp.val - 1, Nat.lt_of_le_of_lt (Nat.sub_le _ _) s.sp.isLt⟩ := rfl
@[simp] theorem State.popEntry_dt : (s.popEntry).dt = s.dt := rfl
@[simp] theorem State.popEntry_st : (s.popEntry).st = s.st := rfl
@[simp] theorem State.popEntry_fb : (s.popEntry).fb = s.fb := rfl
@[simp] theorem State.popEntry_key : (s.popEntry).key = s.key := rfl
@[simp] theorem State.popEntry_run : (s.popEntry).run = s.run := rfl
@[simp] theorem State.popEntry_accI : (s.popEntry).accI = s.accI := rfl
@[simp] theorem State.popEntry_accF : (s.popEntry).accF = s.accF := rfl
@[simp] theorem State.popEntry_stopped : (s.popEntry).stopped = s.stopped := rfl
@[simp] theorem State.popEntry_loadOpen : (s.popEntry).loadOpen = s.loadOpen := rfl
@[simp] theorem State.popEntry_script : (s.popEntry).script = s.script := rfl
@[simp] theorem State.popEntry_draws : (s.popEntry).draws = s.draws := rfl
@[simp] theorem State.popEntry_diag : (s.popEntry).diag = s.diag := rfl
@[simp] theorem State.popEntry_redraws : (s.popEntry).redraws = s.redraws := rfl
@[simp] theorem State.popEntry_shown : (s.popEntry).shown = s.shown := rfl
@[simp] theorem State.popEntry_reg (z : Reg) : (s.popEntry).reg z = s.reg z := rfl
@[simp] theorem State.popEntry_readByte (z : Nat) : (s.popEntry).readByte z = s.readByte z := rfl
@[simp] theorem State.popEntry_keyDown (z : Nat) : (s.popEntry).keyDown z = s.keyDown z := rfl
@[simp] theorem State.popEntry_lowestKey : (s.popEntry).lowestKey = s.lowestKey := rfl
@[simp] theorem State.popEntry_instrAddr : (s.popEntry).instrAddr = s.instrAddr := rfl
@[simp] theorem State.popEntry_nextRandom : (s.popEntry).nextRandom = s.nextRandom := rfl
@[simp] theorem State.popEntry_frozen : (s.popEntry).frozen = s.frozen := rfl
@[simp] theorem State.popEntry_wordAtPc : (s.popEntry).wordAtPc = s.wordAtPc := rfl

/-! ### openSlot -/

@[simp] theorem State.openSlot_params : (s.openSlot).params = s.params := rfl
@[simp] theorem State.openSlot_mem : (s.openSlot).mem = s.mem := rfl
@[simp] theorem State.openSlot_v : (s.openSlot).v = s.v := rfl
@[simp] theorem State.openSlot_index : (s.openSlot).index = s.index := rfl
@[simp] theorem State.openSlot_pc : (s.openSlot).pc = s.pc := rfl
@[simp] theorem State.openSlot_stack : (s.openSlot).stack = s.stack := rfl
@[simp] theorem State.openSlot_sp : (s.openSlot).sp = s.sp := rfl
@[simp] theorem State.openSlot_dt : (s.openSlot).dt = s.dt := rfl
@[simp] theorem State.openSlot_st : (s.openSlot).st = s.st := rfl
@[simp] theorem State.openSlot_fb : (s.openSlot).fb = s.fb := rfl
@[simp] theorem State.openSlot_key : (s.openSlot).key = s.key := rfl
@[simp] theorem State.openSlot_run : (s.openSlot).run = s.run := rfl
@[simp] theorem State.openSlot_accI : (s.openSlot).accI = s.accI - s.params.frameRate := rfl
@[simp] theorem State.openSlot_accF : (s.openSlot).accF = s.accF := rfl
@[simp] theorem State.openSlot_stopped : (s.openSlot).stopped = s.stopped := rfl
@[simp] theorem State.openSlot_loadOpen : (s.openSlot).loadOpen = false := rfl
@[simp] theorem State.openSlot_script : (s.openSlot).script = s.script := rfl
@[simp] theorem State.openSlot_draws : (s.openSlot).draws = s.draws := rfl
@[simp] theorem State.openSlot_diag : (s.openSlot).diag = s.diag := rfl
@[simp] theorem State.openSlot_redraws : (s.openSlot).redraws = s.redraws := rfl
@[simp] theorem State.openSlot_shown : (s.openSlot).shown = s.shown := rfl
@[simp] theorem State.openSlot_reg (z : Reg) : (s.openSlot).reg z = s.reg z := rfl
@[simp] theorem State.openSlot_readByte (z : Nat) : (s.openSlot).readByte z = s.readByte z := rfl
@[simp] theorem State.openSlot_keyDown (z : Nat) : (s.openSlot).keyDown z = s.keyDown z := rfl
@[simp] theorem State.openSlot_lowestKey : (s.openSlot).lowestKey = s.lowestKey := rfl
@[simp] theorem State.openSlot_instrAddr : (s.openSlot).instrAddr = s.instrAddr := rfl
@[simp] theorem State.openSlot_nextRandom : (s.openSlot).nextRandom = s.nextRandom := rfl
@[simp] theorem State.openSlot_topEntry : (s.openSlot).topEntry = s.topEntry := rfl
@[simp] theorem State.openSlot_frozen : (s.openSlot).frozen = s.frozen := rfl
@[simp] theorem State.openSlot_wordAtPc : (s.openSlot).wordAtPc = s.wordAtPc := rfl

/-! ### slotStart -/

@[simp] theorem State.slotStart_params : (s.slotStart).params = s.params := rfl
@[simp] theorem State.slotStart_mem : (s.slotStart).mem = s.mem := rfl
@[simp] theorem State.slotStart_v : (s.slotStart).v = s.v := rfl
@[simp] theorem State.slotStart_index : (s.slotStart).index = s.index := rfl
@[simp] theorem State.slotStart_pc : (s.slotStart).pc = s.pc := rfl
@[simp] theorem State.slotStart_stack : (s.slotStart).stack = s.stack := rfl
@[simp] theorem State.slotStart_sp : (s.slotStart).sp = s.sp := rfl
@[simp] theorem State.slotStart_dt : (s.slotStart).dt = s.dt := rfl
@[simp] theorem State.slotStart_st : (s.slotStart).st = s.st := rfl
@[simp] theorem State.slotStart_fb : (s.slotStart).fb = s.fb := rfl
@[simp] theorem State.slotStart_key : (s.slotStart).key = s.key := rfl
@[simp] theorem State.slotStart_run : (s.slotStart).run = s.run := rfl
@[simp] theorem State.slotStart_accI : (s.slotStart).accI = s.accI := rfl
@[simp] theorem State.slotStart_accF : (s.slotStart).accF = s.accF := rfl
@[simp] theorem State.slotStart_stopped : (s.slotStart).stopped = s.stopped := rfl
@[simp] theorem State.slotStart_loadOpen : (s.slotStart).loadOpen = s.loadOpen := rfl
@[simp] theorem State.slotStart_script : (s.slotStart).script = s.script.tail := rfl
@[simp] theorem State.slotStart_draws : (s.slotStart).draws = s.draws := rfl
@[simp] theorem State.slotStart_diag : (s.slotStart).diag = s.diag := rfl
@[simp] theorem State.slotStart_redraws : (s.slotStart).redraws = s.redraws := rfl
@[simp] theorem State.slotStart_shown : (s.slotStart).shown = s.shown := rfl
@[simp] theorem State.slotStart_reg (z : Reg) : (s.slotStart).reg z = s.reg z := rfl
@[simp] theorem State.slotStart_readByte (z : Nat) : (s.slotStart).readByte z = s.readByte z := rfl
@[simp] theorem State.slotStart_keyDown (z : Nat) : (s.slotStart).keyDown z = s.keyDown z := rfl
@[simp] theorem State.slotStart_lowestKey : (s.slotStart).lowestKey = s.lowestKey := rfl
@[simp] theorem State.slotStart_instrAddr : (s.slotStart).instrAddr = s.instrAddr := rfl
@[simp] theorem State.slotStart_nextRandom : (s.slotStart).nextRandom = s.nextRandom := rfl
@[simp] theorem State.slotStart_topEntry : (s.slotStart).topEntry = s.topEntry := rfl
@[simp] theorem State.slotStart_frozen : (s.slotStart).frozen = s.frozen := rfl
@[simp] theorem State.slotStart_wordAtPc : (s.slotStart).wordAtPc = s.wordAtPc := rfl

/-! ### frameTick -/

@[simp] theorem State.frameTick_params : (s.frameTick).params = s.params := rfl
@[simp] theorem State.frameTick_mem : (s.frameTick).mem = s.mem := rfl
@[simp] theorem State.frameTick_v : (s.frameTick).v = s.v := rfl
@[simp] theorem State.frameTick_index : (s.frameTick).index = s.index := rfl
@[simp] theorem State.frameTick_pc : (s.frameTick).pc = s.pc := rfl
@[simp] theorem State.frameTick_stack : (s.frameTick).stack = s.stack := rfl
@[simp] theorem State.frameTick_sp : (s.frameTick).sp = s.sp := rfl
@[simp] theorem State.frameTick_dt : (s.frameTick).dt = decay s.dt := rfl
@[simp] theorem State.frameTick_st : (s.frameTick).st = decay s.st := rfl
@[simp] theorem State.frameTick_fb : (s.frameTick).fb = s.fb := rfl
@[simp] theorem State.frameTick_key : (s.frameTick).key = s.key := rfl
@[simp] theorem State.frameTick_run : (s.frameTick).run = s.run := rfl
@[simp] theorem State.frameTick_accI : (s.frameTick).accI = s.accI := rfl
@[simp] theorem State.frameTick_accF : (s.frameTick).accF = s.accF - s.params.instrRate := rfl
@[simp] theorem State.frameTick_stopped : (s.frameTick).stopped = s.stopped := rfl
@[simp] theorem State.frameTick_loadOpen : (s.frameTick).loadOpen = s.loadOpen := rfl
@[simp] theorem State.frameTick_script : (s.frameTick).script = s.script := rfl
@[simp] theorem State.frameTick_draws : (s.frameTick).draws = s.draws := rfl
@[simp] theorem State.frameTick_diag : (s.frameTick).diag = s.diag := rfl
@[simp] theorem State.frameTick_redraws : (s.frameTick).redraws = s.redraws + 1 := rfl
@[simp] theorem State.frameTick_shown : (s.frameTick).shown = s.fb := rfl
@[simp] theorem State.frameTick_reg (z : Reg) : (s.frameTick).reg z = s.reg z := rfl
@[simp] theorem State.frameTick_readByte (z : Nat) : (s.frameTick).readByte z = s.readByte z := rfl
@[simp] theorem State.frameTick_keyDown (z : Nat) : (s.frameTick).keyDown z = s.keyDown z := rfl
@[simp] theorem State.frameTick_lowestKey : (s.frameTick).lowestKey = s.lowestKey := rfl
@[simp] theorem State.frameTick_instrAddr : (s.frameTick).instrAddr = s.instrAddr := rfl
@[simp] theorem State.frameTick_nextRandom : (s.frameTick).nextRandom = s.nextRandom := rfl
@[simp] theorem State.frameTick_topEntry : (s.frameTick).topEntry = s.topEntry := rfl
@[simp] theorem State.frameTick_frozen : (s.frameTick).frozen = s.frozen := rfl
@[simp] theorem State.frameTick_wordAtPc : (s.frameTick).wordAtPc = s.wordAtPc := rfl

end Sys2Proof.Machine
end

