-- ==== Sys2Proof/Laws/Ops.lean ====
section
/-! SUPPORT. For each shared operation, what it can do, said once: registers, address formation, stack, block transfers, the
display buffer, the draw loops and the input latch. -/

namespace Sys2Proof.Machine

/-! ## Registers -/

theorem State.reg_setReg (s : State) (x : Reg) (b : Byte) (z : Reg) :
    (s.setReg x b).reg z = if z = x then b else s.reg z := by
  simp only [State.setReg, State.reg, Vector.getElem_set, BitVec.toNat_eq (x := z), eq_comm]

@[simp] theorem State.reg_setReg_same (s : State) (x : Reg) (b : Byte) : (s.setReg x b).reg x = b := by
  simp [State.reg_setReg]

theorem State.reg_setReg_ne (s : State) {x z : Reg} (b : Byte) (h : z ≠ x) : (s.setReg x b).reg z = s.reg z := by
  simp [State.reg_setReg, h]

/-- VX and VF after a result and a flag (R112): VF holds the flag whatever x is. -/
theorem State.reg_setResultAndFlag (s : State) (x : Reg) (b : Byte) (f : Bool) (z : Reg) :
    (s.setResultAndFlag x b f).reg z = if z = 0xF#4 then flagByte f else if z = x then b else s.reg z := by
  simp only [State.setResultAndFlag, vF, State.reg_setReg]

theorem flagByte_toNat (f : Bool) : (flagByte f).toNat = if f then 1 else 0 := by cases f <;> rfl

/-- The registers after a block of bytes from register `k` on (R130). -/
theorem State.reg_setRegsFrom (bs : List Byte) (s : State) (k : Nat) (hk : k + bs.length ≤ 16) (z : Reg) :
    (s.setRegsFrom k bs).reg z =
      if k ≤ z.toNat ∧ z.toNat < k + bs.length then (bs[z.toNat - k]?).getD 0#8 else s.reg z := by
  induction bs generalizing s k with
  | nil => rw [if_neg (by simp)]; rfl
  | cons b bs ih =>
    simp only [List.length_cons] at hk
    rw [State.setRegsFrom, ih _ _ (by omega), State.reg_setReg]
    have hz : z = BitVec.ofNat 4 k ↔ z.toNat = k := by
      rw [BitVec.toNat_eq, BitVec.toNat_ofNat, Nat.mod_eq_of_lt (by omega : k < 2 ^ 4)]
    simp only [hz, List.length_cons]
    by_cases h1 : z.toNat = k
    · simp [h1]
    · by_cases h2 : k + 1 ≤ z.toNat ∧ z.toNat < k + 1 + bs.length
      · have : z.toNat - k = (z.toNat - (k + 1)) + 1 := by omega
        rw [if_pos h2, if_pos (by omega), this, List.getElem?_cons_succ]
      · rw [if_neg h2, if_neg h1, if_neg (by omega)]

/-- A block of bytes into registers writes the registers and nothing else. -/
theorem State.setRegsFrom_eq (bs : List Byte) (s : State) (k : Nat) :
    s.setRegsFrom k bs = { s with v := (s.setRegsFrom k bs).v } := by
  induction bs generalizing s k with
  | nil => rfl
  | cons b bs ih =>
    rw [State.setRegsFrom, ih]
    rfl

/-! ## Forming an address -/

@[simp] theorem State.reports_nil (s : State) : s.reports [] = s := by simp [State.reports]

@[simp] theorem State.reports_reports (s : State) (es fs : List Event) : (s.reports es).reports fs = s.reports (es ++ fs) := by
  simp [State.reports]

/-- `Addr(e)` where it gives an address (R56): the rest runs on `e mod 0x1000`, after the report if there is one. -/
theorem formAddrAt_ok {a : Nat} {start : State} {e : Nat} {s : State} {k : Nat → State → Result} (h : AddrOk s e) :
    formAddrAt a start e s k = k (e % 0x1000) (s.reports (oobReport a e)) := by
  unfold formAddrAt oobReport
  split
  · rw [State.reports_nil, Nat.mod_eq_of_lt (by omega)]
  · rename_i hn
    rw [h.resolve_left hn]
    rfl

/-- `Addr(e)` above 0xFFF under `OOB_POLICY = Fault` (R56, R152): the fault outcome. -/
theorem formAddrAt_fault {a : Nat} {start : State} {e : Nat} {s : State} {k : Nat → State → Result} (h : 0xFFF < e)
    (hp : s.params.oobPolicy = .fault) : formAddrAt a start e s k = .fault (.outOfBoundsAddress e a start) := by
  unfold formAddrAt
  rw [if_neg (by omega), hp]

/-- All that `Addr(e)` can lead to: the rest on the address formed, or the fault outcome. -/
theorem formAddrAt_cases (a : Nat) (start : State) (e : Nat) (s : State) (k : Nat → State → Result) :
    formAddrAt a start e s k = k (e % 0x1000) (s.reports (oobReport a e)) ∨
      formAddrAt a start e s k = .fault (.outOfBoundsAddress e a start) := by
  by_cases h : AddrOk s e
  · exact .inl (formAddrAt_ok h)
  · rcases Nat.lt_or_ge 0xFFF e with he | he
    · cases hp : s.params.oobPolicy with
      | wrap => exact absurd (.inr hp) h
      | fault => exact .inr (formAddrAt_fault he hp)
    · exact absurd (.inl he) h

theorem formAddr_ok {start : State} {e : Nat} {s : State} {k : Nat → State → Result} (h : AddrOk s e) :
    formAddr start e s k = k (e % 0x1000) (s.reports (oobReport start.instrAddr e)) := formAddrAt_ok h

theorem formAddr_cases (start : State) (e : Nat) (s : State) (k : Nat → State → Result) :
    formAddr start e s k = k (e % 0x1000) (s.reports (oobReport start.instrAddr e)) ∨
      formAddr start e s k = .fault (.outOfBoundsAddress e start.instrAddr start) := formAddrAt_cases ..

/-! ## Skips -/

theorem skipIf_false (s : State) : skipIf false s = .next s := rfl

/-- A skip taken (R102). -/
theorem skipIf_true {s : State} (h : AddrOk s (s.pc.toNat + 2)) :
    skipIf true s =
      .next ((s.reports (oobReport s.instrAddr (s.pc.toNat + 2))).setPc ((s.pc.toNat + 2) % 0x1000)) := by
  simp only [skipIf, if_true, skip, formAddr_ok h]

/-- All that a skip can answer as a next state. -/
theorem skipIf_next {c : Bool} {s t : State} (h : skipIf c s = .next t) :
    t = s ∨ t = (s.reports (oobReport s.instrAddr (s.pc.toNat + 2))).setPc ((s.pc.toNat + 2) % 0x1000) := by
  cases c with
  | false => exact .inl (by simpa [skipIf] using h.symm)
  | true =>
    rcases formAddr_cases s (s.pc.toNat + 2) s (fun p s1 => .next (s1.setPc p)) with e | e
    · exact .inr (by simpa [skipIf, skip, e] using h.symm)
    · simp [skipIf, skip, e] at h

/-! ## The stack -/

theorem push_ok {start : State} {w : Word} {s : State} {ok overflow : State → Result} (h : s.sp.val < 16) :
    push start w s ok overflow = ok (s.pushEntry w h) := by
  simp [push, h]

theorem push_overflow {start : State} {w : Word} {s : State} {ok overflow : State → Result} (h : s.sp.val = 16)
    (hp : s.params.stackPolicy = .clamp) :
    push start w s ok overflow = overflow (s.report (.stackOverflow start.instrAddr)) := by
  simp [push, h, hp]

theorem push_fault {start : State} {w : Word} {s : State} {ok overflow : State → Result} (h : s.sp.val = 16)
    (hp : s.params.stackPolicy = .fault) : push start w s ok overflow = .fault (.stackOverflow start.instrAddr start) := by
  simp [push, h, hp]

theorem pop_ok {start s : State} {ok : Word → State → Result} {under : State → Result} (h : s.sp.val ≠ 0) :
    pop start s ok under = ok s.topEntry s.popEntry := by
  simp [pop, h]

theorem pop_underflow {start s : State} {ok : Word → State → Result} {under : State → Result} (h : s.sp.val = 0)
    (hp : s.params.stackPolicy = .clamp) :
    pop start s ok under = under (s.report (.stackUnderflow start.instrAddr)) := by
  simp [pop, h, hp]

theorem pop_fault {start s : State} {ok : Word → State → Result} {under : State → Result} (h : s.sp.val = 0)
    (hp : s.params.stackPolicy = .fault) : pop start s ok under = .fault (.stackUnderflow start.instrAddr start) := by
  simp [pop, h, hp]

/-! ## Block transfers -/

/-- A block read that completes (R60, R73): the bytes at `(base + k) mod 0x1000`, and the reports in order. -/
theorem readBlock_ok {start : State} {base : Nat} {ks : List Nat} {s : State} {rest : List Byte → State → Result}
    (h : ∀ k ∈ ks, AddrOk s (base + k)) :
    readBlock start base ks s rest =
      rest (ks.map fun k => s.readByte ((base + k) % 0x1000)) (s.reports (oobReports start.instrAddr base ks)) := by
  induction ks generalizing s rest with
  | nil => simp [readBlock, oobReports]
  | cons k ks ih =>
    have hks : ∀ j ∈ ks, AddrOk (s.reports (oobReport start.instrAddr (base + k))) (base + j) :=
      fun j hj => h j (List.mem_cons_of_mem _ hj)
    rw [readBlock, formAddr_ok (h k List.mem_cons_self), ih hks]
    simp [oobReports]

/-- All that a block read can lead to: the rest on the bytes read, or the fault outcome. -/
theorem readBlock_cases (start : State) (base : Nat) (ks : List Nat) (s : State) (rest : List Byte → State → Result) :
    readBlock start base ks s rest =
        rest (ks.map fun k => s.readByte ((base + k) % 0x1000)) (s.reports (oobReports start.instrAddr base ks)) ∨
      ∃ e, readBlock start base ks s rest = .fault (.outOfBoundsAddress e start.instrAddr start) := by
  induction ks generalizing s rest with
  | nil => simp [readBlock, oobReports]
  | cons k ks ih =>
    rw [readBlock]
    rcases formAddr_cases start (base + k) s
        (fun a s1 => readBlock start base ks s1 fun bs s2 => rest (s1.readByte a :: bs) s2) with e | e
    · rw [e]
      rcases ih (s.reports (oobReport start.instrAddr (base + k)))
          (fun bs s2 => rest (State.readByte (s.reports (oobReport start.instrAddr (base + k))) ((base + k) % 0x1000) :: bs) s2)
        with e2 | e2
      · exact .inl (by rw [e2]; simp [oobReports])
      · exact .inr e2
    · exact .inr ⟨_, e⟩

/-- The memory after a block of stores at `(base + k) mod 0x1000`, in order. -/
def blockMem (p : Params) (base : Nat) (kbs : List (Nat × Byte)) (m : Memory) : Memory :=
  kbs.foldl (fun m kb => Memory.write p ((base + kb.1) % 0x1000) kb.2 m) m

/-- A block write that completes (R60, R73): the stores in order, and the reports in order. -/
theorem writeBlock_ok {start : State} {base : Nat} {kbs : List (Nat × Byte)} {s : State}
    (h : ∀ kb ∈ kbs, AddrOk s (base + kb.1)) :
    writeBlock start base kbs s =
      .next { s with
        mem := blockMem s.params base kbs s.mem
        diag := s.diag ++ oobReports start.instrAddr base (kbs.map Prod.fst) } := by
  induction kbs generalizing s with
  | nil => simp [writeBlock, blockMem, oobReports]
  | cons kb kbs ih =>
    obtain ⟨k, b⟩ := kb
    have hks : ∀ j ∈ kbs,
        AddrOk ((s.reports (oobReport start.instrAddr (base + k))).writeByte ((base + k) % 0x1000) b) (base + j.1) :=
      fun j hj => h j (List.mem_cons_of_mem _ hj)
    rw [writeBlock, formAddr_ok (h (k, b) List.mem_cons_self), ih hks]
    simp [blockMem, oobReports, State.reports, State.writeByte]

/-- All that a block write can answer: the stores in order, or the fault outcome. -/
theorem writeBlock_cases (start : State) (base : Nat) (kbs : List (Nat × Byte)) (s : State) :
    writeBlock start base kbs s =
        .next { s with
          mem := blockMem s.params base kbs s.mem
          diag := s.diag ++ oobReports start.instrAddr base (kbs.map Prod.fst) } ∨
      ∃ e, writeBlock start base kbs s = .fault (.outOfBoundsAddress e start.instrAddr start) := by
  induction kbs generalizing s with
  | nil => simp [writeBlock, blockMem, oobReports]
  | cons kb kbs ih =>
    obtain ⟨k, b⟩ := kb
    rw [writeBlock]
    rcases formAddr_cases start (base + k) s (fun a s1 => writeBlock start base kbs (s1.writeByte a b)) with e | e
    · rw [e]
      rcases ih ((s.reports (oobReport start.instrAddr (base + k))).writeByte ((base + k) % 0x1000) b) with e2 | e2
      · exact .inl (by rw [e2]; simp [blockMem, oobReports, State.reports, State.writeByte])
      · exact .inr e2
    · exact .inr ⟨_, e⟩

/-- A byte no store of the block goes to reads as before. -/
theorem read_blockMem_other {p : Params} {base : Nat} {kbs : List (Nat × Byte)} {m : Memory} {a : Nat}
    (h : ∀ kb ∈ kbs, a ≠ (base + kb.1) % 0x1000) : Memory.read p (blockMem p base kbs m) a = Memory.read p m a := by
  induction kbs generalizing m with
  | nil => rfl
  | cons kb kbs ih =>
    rw [blockMem, List.foldl_cons]
    exact (ih fun j hj => h j (List.mem_cons_of_mem _ hj)).trans
      ((Memory.read_write ..).trans (if_neg (h kb List.mem_cons_self)))

/-- A byte of the block reads as stored, where the block's offsets are distinct and below 0x1000. -/
theorem read_blockMem_self {p : Params} {base : Nat} {kbs : List (Nat × Byte)} {m : Memory} {k : Nat} {b : Byte}
    (hm : (k, b) ∈ kbs) (hd : (kbs.map Prod.fst).Nodup) (hlt : ∀ kb ∈ kbs, kb.1 < 0x1000) :
    Memory.read p (blockMem p base kbs m) ((base + k) % 0x1000) = b := by
  induction kbs generalizing m with
  | nil => simp at hm
  | cons kb kbs ih =>
    rw [blockMem, List.foldl_cons]
    rw [List.map_cons, List.nodup_cons] at hd
    rcases List.mem_cons.1 hm with rfl | hm
    · refine (read_blockMem_other fun j hj => ?_).trans ((Memory.read_write ..).trans (if_pos rfl))
      have hne : j.1 ≠ k := fun e => hd.1 (List.mem_map.2 ⟨j, hj, e⟩)
      have h1 := hlt j (List.mem_cons_of_mem _ hj)
      have h2 := hlt _ (List.mem_cons_self (a := (k, b)) (l := kbs))
      simp only at h2
      omega
    · exact ih hm hd.2 fun j hj => hlt j (List.mem_cons_of_mem _ hj)

theorem blockMem_wf {p : Params} {base : Nat} {kbs : List (Nat × Byte)} {m : Memory} (h : Memory.wf p m) :
    Memory.wf p (blockMem p base kbs m) := by
  induction kbs generalizing m with
  | nil => exact h
  | cons kb kbs ih => exact ih (Memory.write_wf (Nat.mod_lt _ (by decide)) h)

/-! ## The display buffer -/

/-- A pixel after `Xor(r, c)` (R131). -/
theorem Frame.get_xorPixel (fb : Frame) {r c : Nat} (hr : r < 32) (hc : c < 64) (r' c' : Nat) :
    Frame.get (Frame.xorPixel fb r c) r' c' = (Frame.get fb r' c' ^^ decide (r' = r ∧ c' = c)) := by
  unfold Frame.get Frame.xorPixel
  rw [dif_pos hr]
  by_cases hr' : r' < 32
  · simp only [hr', dif_pos, Vector.getElem_set]
    by_cases h : r = r'
    · subst h
      simp only [if_true, BitVec.getLsbD_xor, BitVec.getLsbD_twoPow]
      by_cases hcc : c = c'
      · simp [← hcc, hc]
      · simp [hcc, Ne.symm hcc]
    · simp [h, Ne.symm h]
  · have : r' ≠ r := by omega
    simp [hr', this]

@[simp] theorem Frame.get_clear (r c : Nat) : Frame.get Frame.clear r c = false := by
  unfold Frame.get Frame.clear
  split <;> simp

/-- Two display buffers with the same pixels are the same. -/
theorem Frame.ext_get {f g : Frame} (h : ∀ r, r < 32 → ∀ c, c < 64 → Frame.get f r c = Frame.get g r c) : f = g := by
  refine Vector.ext fun r hr => BitVec.eq_of_getLsbD_eq fun c hc => ?_
  have := h r hr c hc
  simpa [Frame.get, hr] using this

/-- The inner loop of DXYN (R133) on a list of rising bit numbers: each pixel of the row a set bit falls on is inverted, and the
accumulator gains a collision when one of them was 1. -/
theorem drawBits_spec (row ox : Nat) (b : Byte) (hrow : row < 32) (js : List Nat) (hs : js.Pairwise (· < ·)) (fb : Frame)
    (col : Bool) :
    (∀ r c, Frame.get (drawBits row ox b js fb col).1 r c =
      (Frame.get fb r c ^^ decide (r = row ∧ ∃ j ∈ js, c = ox + j ∧ c < 64 ∧ b.getLsbD (7 - j) = true))) ∧
    (drawBits row ox b js fb col).2 =
      (col || decide (∃ j ∈ js, ox + j < 64 ∧ b.getLsbD (7 - j) = true ∧ Frame.get fb row (ox + j) = true)) := by
  induction js generalizing fb col with
  | nil => simp [drawBits]
  | cons j js ih =>
    rw [List.pairwise_cons] at hs
    unfold drawBits
    by_cases h64 : 64 ≤ ox + j
    · have hout : ∀ i ∈ j :: js, 64 ≤ ox + i := by
        intro i hi
        rcases List.mem_cons.1 hi with rfl | hi
        · exact h64
        · have := hs.1 i hi; omega
      rw [if_pos h64]
      refine ⟨fun r c => ?_, ?_⟩
      · have : ¬(r = row ∧ ∃ i ∈ j :: js, c = ox + i ∧ c < 64 ∧ b.getLsbD (7 - i) = true) := by
          rintro ⟨-, i, hi, rfl, hc, -⟩
          have := hout i hi
          omega
        rw [decide_eq_false this, Bool.xor_false]
      · have : ¬∃ i ∈ j :: js, ox + i < 64 ∧ b.getLsbD (7 - i) = true ∧ Frame.get fb row (ox + i) = true := by
          rintro ⟨i, hi, hc, -⟩
          have := hout i hi
          omega
        rw [decide_eq_false this, Bool.or_false]
    · rw [if_neg h64]
      have hlt : ox + j < 64 := by omega
      by_cases hb : b.getLsbD (7 - j) = true
      · rw [if_pos hb]
        obtain ⟨ih1, ih2⟩ := ih hs.2 (Frame.xorPixel fb row (ox + j)) (col || Frame.get fb row (ox + j))
        have hne : ∀ i ∈ js, ox + i ≠ ox + j := fun i hi => by have := hs.1 i hi; omega
        refine ⟨fun r c => ?_, ?_⟩
        · rw [ih1, Frame.get_xorPixel fb hrow hlt, Bool.xor_assoc]
          congr 1
          by_cases hr : r = row
          · by_cases hc : c = ox + j
            · have : ¬∃ i ∈ js, c = ox + i ∧ c < 64 ∧ b.getLsbD (7 - i) = true := by
                rintro ⟨i, hi, e, -⟩
                exact hne i hi (e.symm.trans hc)
              subst hc
              have h0 : ¬(r = row ∧ ∃ i ∈ js, ox + j = ox + i ∧ ox + j < 64 ∧ b.getLsbD (7 - i) = true) :=
                fun h => this h.2
              rw [decide_eq_false h0, Bool.xor_false, decide_eq_true ⟨hr, rfl⟩,
                decide_eq_true ⟨hr, j, List.mem_cons_self, rfl, hlt, hb⟩]
            · simp [hr, hc]
          · simp [hr]
        · rw [ih2, Bool.or_assoc]
          congr 1
          have : (∃ i ∈ js, ox + i < 64 ∧ b.getLsbD (7 - i) = true ∧
              Frame.get (Frame.xorPixel fb row (ox + j)) row (ox + i) = true) ↔
              ∃ i ∈ js, ox + i < 64 ∧ b.getLsbD (7 - i) = true ∧ Frame.get fb row (ox + i) = true := by
            refine exists_congr fun i => and_congr_right fun hi => ?_
            rw [Frame.get_xorPixel fb hrow hlt, decide_eq_false (fun h => hne i hi h.2), Bool.xor_false]
          by_cases hg : Frame.get fb row (ox + j) = true <;> simp [hg, this, hlt, hb]
      · rw [if_neg hb]
        obtain ⟨ih1, ih2⟩ := ih hs.2 fb col
        refine ⟨fun r c => ?_, ?_⟩
        · rw [ih1]; simp [hb]
        · rw [ih2]; simp [hb]

/-- Pixel (r, c) is lit by the sprite rows `bs` drawn from row `row` and column `ox` on: on screen, and its bit is set (R133). -/
def rowsBit (ox row : Nat) (bs : List Byte) (r c : Nat) : Bool :=
  decide (row ≤ r ∧ r < row + bs.length ∧ r < 32 ∧ ox ≤ c ∧ c < ox + 8 ∧ c < 64) &&
    ((bs[r - row]?).getD 0#8).getLsbD (7 - (c - ox))

/-- The draw loops of DXYN (R133): every pixel the sprite lights is inverted, and there is a collision iff one of them was 1. -/
theorem drawRows_spec (ox : Nat) (bs : List Byte) (row : Nat) (fb : Frame) (col : Bool) :
    (∀ r c, Frame.get (drawRows ox row bs fb col).1 r c = (Frame.get fb r c ^^ rowsBit ox row bs r c)) ∧
    ((drawRows ox row bs fb col).2 = true ↔
      col = true ∨ ∃ r c, rowsBit ox row bs r c = true ∧ Frame.get fb r c = true) := by
  induction bs generalizing row fb col with
  | nil =>
    have : ∀ r c, rowsBit ox row [] r c = false := fun r c => by simp [rowsBit]
    simp [drawRows, this]
  | cons b bs ih =>
    unfold drawRows
    by_cases h32 : 32 ≤ row
    · have : ∀ r c, rowsBit ox row (b :: bs) r c = false := fun r c => by
        have : ¬(row ≤ r ∧ r < row + (b :: bs).length ∧ r < 32 ∧ ox ≤ c ∧ c < ox + 8 ∧ c < 64) := by omega
        simp only [rowsBit, decide_eq_false this, Bool.false_and]
      simp [h32, this]
    · rw [if_neg h32]
      have hrow : row < 32 := by omega
      obtain ⟨hb1, hb2⟩ := drawBits_spec row ox b hrow (List.range 8) (List.pairwise_lt_range) fb col
      obtain ⟨ih1, ih2⟩ := ih (row + 1) (drawBits row ox b (List.range 8) fb col).1
        (drawBits row ox b (List.range 8) fb col).2
      have hsplit : ∀ r c, rowsBit ox row (b :: bs) r c =
          (decide (r = row ∧ ∃ j ∈ List.range 8, c = ox + j ∧ c < 64 ∧ b.getLsbD (7 - j) = true) ^^
            rowsBit ox (row + 1) bs r c) := by
        intro r c
        by_cases hr : r = row
        · subst hr
          have h2 : rowsBit ox (r + 1) bs r c = false := by
            have : ¬(r + 1 ≤ r ∧ r < r + 1 + bs.length ∧ r < 32 ∧ ox ≤ c ∧ c < ox + 8 ∧ c < 64) := by omega
            simp only [rowsBit, decide_eq_false this, Bool.false_and]
          rw [h2, Bool.xor_false]
          simp only [rowsBit, List.length_cons, Nat.sub_self, List.getElem?_cons_zero, Option.getD_some]
          rw [Bool.eq_iff_iff]
          simp only [Bool.and_eq_true, decide_eq_true_eq, List.mem_range, true_and]
          constructor
          · rintro ⟨⟨-, -, -, h3, h4, h5⟩, h6⟩
            exact ⟨c - ox, by omega, by omega, h5, h6⟩
          · rintro ⟨j, hj, rfl, h5, h6⟩
            refine ⟨⟨by omega, by omega, hrow, by omega, by omega, h5⟩, ?_⟩
            rwa [show ox + j - ox = j by omega]
        · have h1 : ¬(r = row ∧ ∃ j ∈ List.range 8, c = ox + j ∧ c < 64 ∧ b.getLsbD (7 - j) = true) := fun h => hr h.1
          rw [decide_eq_false h1, Bool.false_xor]
          by_cases hlt : row + 1 ≤ r
          · have e : r - row = (r - (row + 1)) + 1 := by omega
            simp only [rowsBit, e, List.getElem?_cons_succ, List.length_cons]
            congr 2
            simp only [eq_iff_iff]
            constructor <;> rintro ⟨-, h2, h3, h4⟩ <;> exact ⟨by omega, by omega, h3, h4⟩
          · have n1 : ¬(row ≤ r ∧ r < row + (b :: bs).length ∧ r < 32 ∧ ox ≤ c ∧ c < ox + 8 ∧ c < 64) := by omega
            have n2 : ¬(row + 1 ≤ r ∧ r < row + 1 + bs.length ∧ r < 32 ∧ ox ≤ c ∧ c < ox + 8 ∧ c < 64) := by omega
            simp only [rowsBit, decide_eq_false n1, decide_eq_false n2, Bool.false_and]
      refine ⟨fun r c => ?_, ?_⟩
      · simp only [ih1, hb1, hsplit, Bool.xor_assoc]
      · have hnext : ∀ r c, rowsBit ox (row + 1) bs r c = true → r ≠ row := by
          intro r c h e
          simp only [rowsBit, Bool.and_eq_true, decide_eq_true_eq] at h
          omega
        rw [ih2, hb2, Bool.or_eq_true, decide_eq_true_eq, or_assoc]
        refine or_congr_right ⟨?_, ?_⟩
        · rintro (⟨j, hj, hc, hbit, hg⟩ | ⟨r, c, hbit, hg⟩)
          · refine ⟨row, ox + j, ?_, hg⟩
            rw [hsplit]
            have h2 : rowsBit ox (row + 1) bs row (ox + j) = false := by
              by_contra h
              exact hnext _ _ (by simpa using h) rfl
            rw [h2, Bool.xor_false, decide_eq_true_eq]
            exact ⟨rfl, j, hj, rfl, hc, hbit⟩
          · have hr := hnext r c hbit
            refine ⟨r, c, ?_, ?_⟩
            · rw [hsplit, hbit]
              simp [hr]
            · rw [hb1] at hg
              simpa [hr] using hg
        · rintro ⟨r, c, hbit, hg⟩
          by_cases hr : r = row
          · subst hr
            rw [hsplit] at hbit
            have h2 : rowsBit ox (r + 1) bs r c = false := by
              by_contra h
              exact hnext _ _ (by simpa using h) rfl
            rw [h2, Bool.xor_false, decide_eq_true_eq] at hbit
            obtain ⟨-, j, hj, rfl, hc, hb⟩ := hbit
            exact .inl ⟨j, hj, hc, hb, hg⟩
          · refine .inr ⟨r, c, ?_, ?_⟩
            · rw [hsplit] at hbit
              simpa [hr] using hbit
            · rw [hb1]
              simpa [hr] using hg

/-! ## The input latch -/

/-- `min { k | KEY[k] }`: pressed, and no lower key is (R139). -/
theorem lowestKey_some {s : State} {k : Nat} (h : s.lowestKey = some k) :
    k < 16 ∧ s.keyDown k = true ∧ ∀ j, j < k → s.keyDown j = false := by
  obtain ⟨hk, as, bs, hl, hlow⟩ := List.find?_eq_some_iff_append.1 h
  have hlen : as.length < 16 := by
    have := congrArg List.length hl
    simp at this
    omega
  have hget : ∀ i (hi : i < as.length), as[i] = i := by
    intro i hi
    have := congrArg (fun l => l[i]?) hl
    simp only [List.getElem?_append_left hi, List.getElem?_eq_getElem hi] at this
    rw [List.getElem?_eq_getElem (by simp; omega)] at this
    simpa using this.symm
  have hke : k = as.length := by
    have := congrArg (fun l => l[as.length]?) hl
    simp only [List.getElem?_append_right (Nat.le_refl _), Nat.sub_self] at this
    rw [List.getElem?_eq_getElem (by simp; omega)] at this
    simpa using this.symm
  refine ⟨by omega, hk, fun j hj => ?_⟩
  have hj' : j < as.length := by omega
  have := hlow j (by rw [← hget j hj']; exact List.getElem_mem hj')
  simpa using this

theorem lowestKey_none {s : State} : s.lowestKey = none ↔ ∀ k, k < 16 → s.keyDown k = false := by
  simp [State.lowestKey, List.find?_eq_none]

theorem keyDown_lt {s : State} {k : Nat} (h : s.keyDown k = true) : k < 16 := by
  unfold State.keyDown at h
  split at h
  · assumption
  · simp at h

theorem lowestKey_eq {s : State} {k : Nat} (hk : s.keyDown k = true) (hlow : ∀ j, j < k → s.keyDown j = false) :
    s.lowestKey = some k := by
  cases h : s.lowestKey with
  | none => rw [lowestKey_none] at h; simp [h k (keyDown_lt hk)] at hk
  | some m =>
    obtain ⟨-, hm, hml⟩ := lowestKey_some h
    rcases Nat.lt_trichotomy k m with c | c | c
    · simp [hml k c] at hk
    · rw [c]
    · simp [hlow m c] at hm

/-! ## Recording the start of a slot -/

theorem recordStart_next {start : State} {r : Result} {t : State} : recordStart start r = .next t ↔ r = .next t := by
  cases r <;> simp [recordStart]

end Sys2Proof.Machine
end

