-- ==== Sys2Proof/Laws/Cycle.lean ====
section
/-! SUPPORT. What a slot and a step can do, said once: the fetch and the advance, the choice by RUN, and the choice of the next
action. -/

namespace Sys2Proof.Machine

/-- A slot whose fetch and advance form their addresses executes the word at PC in the state `executing` (R94 to R97). -/
theorem stepInstr_ok {s : State} (h : s.fetchOk) :
    stepInstr s s.openSlot = recordStart s (execute (decode s.wordAtPc) s.pc.toNat s.executing) := by
  obtain ⟨-, h1, h2⟩ := h
  have h1' : AddrOk s.openSlot (s.openSlot.pc.toNat + 1) := h1
  have h2' : AddrOk (s.openSlot.reports (oobReport s.pc.toNat (s.pc.toNat + 1))) (s.pc.toNat + 2) := h2
  unfold stepInstr fetch16 advance
  rw [formAddrAt_ok h1']
  simp only [State.openSlot_pc]
  rw [formAddrAt_ok h2']
  rfl

/-- All that an instruction slot can lead to: the execution of the word at PC, or the fault of the fetch or the advance. -/
theorem stepInstr_cases (s : State) :
    stepInstr s s.openSlot = recordStart s (execute (decode s.wordAtPc) s.pc.toNat s.executing) ∨
      ∃ e, stepInstr s s.openSlot = .fault (.outOfBoundsAddress e s.pc.toNat s) := by
  unfold stepInstr fetch16 advance
  rcases formAddrAt_cases s.openSlot.pc.toNat s (s.openSlot.pc.toNat + 1) s.openSlot _ with e | e
  · rw [e]
    rcases formAddrAt_cases s.openSlot.pc.toNat s (s.openSlot.pc.toNat + 2)
      (s.openSlot.reports (oobReport s.openSlot.pc.toNat (s.openSlot.pc.toNat + 1)))
      (fun p s1 => recordStart s (execute (decode s.wordAtPc) s.openSlot.pc.toNat (s1.setPc p))) with e2 | e2
    · exact .inl e2
    · exact .inr ⟨_, e2⟩
  · exact .inr ⟨_, e⟩

/-- The address of the instruction as a meaning computes it is the PC it was fetched at (R18; log 11). -/
theorem instrAddr_executing {s : State} (h : s.pc.toNat ≤ 0xFFF) : s.executing.instrAddr = s.pc.toNat := by
  unfold State.instrAddr State.executing
  simp only [BitVec.toNat_ofNat]
  omega

theorem slot_running {s : State} (h : s.run = .running) : slot s = stepInstr s s.openSlot := by
  simp [slot, h]

theorem slot_waiting {s : State} {x : Reg} (h : s.run = .waitKey x) : slot s = .next (waitSlot x s.openSlot) := by
  simp [slot, h]

theorem step_stopped {s : State} (h : s.stopped = true) : step s = .next s := by
  simp [step, stepOnce, h]

theorem step_slot {s : State} (h : s.stopped = false) (hs : s.script = []) : step s = slot s := by
  simp [step, stepOnce, h, hs]

/-- A step at a slot, whichever of the two forms it has, is the slot from its start (log 5). -/
theorem step_atSlot {s : State} (h : s.atSlot) : step s = slot s.slotStart := by
  obtain ⟨hst, hs⟩ := h
  unfold State.slotStart
  rcases hc : s.script with _ | ⟨act, rest⟩
  · rw [step_slot hst hc, List.tail_nil, ← hc]
  · have : act = .slot := by simpa [hc] using hs
    simp [step, stepOnce, hst, hc, this, perform]

theorem step_act {s : State} {act : HostAct} {rest : List HostAct} (h : s.stopped = false) (hs : s.script = act :: rest) :
    step s = perform act { s with script := rest } := by
  simp [step, stepOnce, h, hs]

/-- All that a step can do: nothing once stopped, a slot when the script is empty, else the script's next action. -/
theorem step_cases (s : State) :
    (s.stopped = true ∧ step s = .next s) ∨
      (s.stopped = false ∧ s.script = [] ∧ step s = slot s) ∨
      ∃ act rest, s.stopped = false ∧ s.script = act :: rest ∧ step s = perform act { s with script := rest } := by
  by_cases hst : s.stopped = true
  · exact .inl ⟨hst, step_stopped hst⟩
  · have hst : s.stopped = false := by simpa using hst
    rcases hs : s.script with _ | ⟨act, rest⟩
    · exact .inr (.inl ⟨hst, rfl, step_slot hst hs⟩)
    · exact .inr (.inr ⟨act, rest, hst, rfl, step_act hst hs⟩)

end Sys2Proof.Machine
end

