-- ==== Sys2Proof/Laws/Exec.lean ====
section
/-! SUPPORT. What `exec` is for each instruction, over the shared operations: one equation per instruction, true by definition;
then what every instruction can do (`exec_cases`), said once. -/

namespace Sys2Proof.Machine

variable (s : State)

theorem exec_cls :
    exec .cls s =
      .next (s.setFb Frame.clear) := rfl

theorem exec_ret :
    exec .ret s =
      pop s s (fun v s1 => .next (s1.setPc v.toNat)) (fun s1 => .next s1) := rfl

theorem exec_jp (nnn : Addr12) :
    exec (.jp nnn) s =
      .next (s.setPc nnn.toNat) := rfl

theorem exec_call (nnn : Addr12) :
    exec (.call nnn) s =
      push s s.pc s (fun s1 => .next (s1.setPc nnn.toNat)) (fun s1 => .next s1) := rfl

theorem exec_seImm (x : Reg) (kk : Byte) :
    exec (.seImm x kk) s =
      skipIf (s.reg x == kk) s := rfl

theorem exec_sneImm (x : Reg) (kk : Byte) :
    exec (.sneImm x kk) s =
      skipIf (s.reg x != kk) s := rfl

theorem exec_seReg (x y : Reg) :
    exec (.seReg x y) s =
      skipIf (s.reg x == s.reg y) s := rfl

theorem exec_ldImm (x : Reg) (kk : Byte) :
    exec (.ldImm x kk) s =
      .next (s.setReg x kk) := rfl

theorem exec_addImm (x : Reg) (kk : Byte) :
    exec (.addImm x kk) s =
      .next (s.setReg x (trunc8 ((s.reg x).toNat + kk.toNat))) := rfl

theorem exec_ldReg (x y : Reg) :
    exec (.ldReg x y) s =
      .next (s.setReg x (s.reg y)) := rfl

theorem exec_orReg (x y : Reg) :
    exec (.orReg x y) s =
      .next (s.setReg x (s.reg x ||| s.reg y)) := rfl

theorem exec_andReg (x y : Reg) :
    exec (.andReg x y) s =
      .next (s.setReg x (s.reg x &&& s.reg y)) := rfl

theorem exec_xorReg (x y : Reg) :
    exec (.xorReg x y) s =
      .next (s.setReg x (s.reg x ^^^ s.reg y)) := rfl

theorem exec_addReg (x y : Reg) :
    exec (.addReg x y) s =
      .next (s.setResultAndFlag x (trunc8 ((s.reg x).toNat + (s.reg y).toNat)) (carryOut (s.reg x) (s.reg y))) := rfl

theorem exec_subReg (x y : Reg) :
    exec (.subReg x y) s =
      .next (s.setResultAndFlag x (s.reg x - s.reg y) (notBorrow (s.reg x) (s.reg y))) := rfl

theorem exec_shr (x y : Reg) :
    exec (.shr x y) s =
      .next (s.setResultAndFlag x (s.shiftOperand x y >>> 1) (shiftedOutRight (s.shiftOperand x y))) := rfl

theorem exec_subn (x y : Reg) :
    exec (.subn x y) s =
      .next (s.setResultAndFlag x (s.reg y - s.reg x) (notBorrow (s.reg y) (s.reg x))) := rfl

theorem exec_shl (x y : Reg) :
    exec (.shl x y) s =
      .next (s.setResultAndFlag x (s.shiftOperand x y <<< 1) (shiftedOutLeft (s.shiftOperand x y))) := rfl

theorem exec_sneReg (x y : Reg) :
    exec (.sneReg x y) s =
      skipIf (s.reg x != s.reg y) s := rfl

theorem exec_ldI (nnn : Addr12) :
    exec (.ldI nnn) s =
      .next (s.setIndex nnn.toNat) := rfl

theorem exec_jpV0 (nnn : Addr12) :
    exec (.jpV0 nnn) s =
      formAddr s (nnn.toNat + (s.reg 0x0#4).toNat) s fun p s1 => .next (s1.setPc p) := rfl

theorem exec_rnd (x : Reg) (kk : Byte) :
    exec (.rnd x kk) s =
      .next (s.takeDraw.setReg x (s.nextRandom &&& kk)) := rfl

theorem exec_drw (x y : Reg) (n : Nibble) :
    exec (.drw x y n) s =
      readBlock s s.index.toNat (List.range n.toNat) s fun rows s1 =>
        let drawn := drawRows (s.originCol x) (s.originRow y) rows s1.fb false
        .next ((s1.setFb drawn.1).setReg vF (flagByte drawn.2)) := rfl

theorem exec_skp (x : Reg) :
    exec (.skp x) s =
      skipIf (s.pressed (s.reg x)) s := rfl

theorem exec_sknp (x : Reg) :
    exec (.sknp x) s =
      skipIf (!s.pressed (s.reg x)) s := rfl

theorem exec_ldVxDt (x : Reg) :
    exec (.ldVxDt x) s =
      .next (s.setReg x s.dt) := rfl

theorem exec_ldVxK (x : Reg) :
    exec (.ldVxK x) s =
      match s.lowestKey with
      | some k => .next (s.setReg x (trunc8 k))
      | none => .next (s.setRun (.waitKey x)) := rfl

theorem exec_ldDtVx (x : Reg) :
    exec (.ldDtVx x) s =
      .next (s.setDt (s.reg x)) := rfl

theorem exec_ldStVx (x : Reg) :
    exec (.ldStVx x) s =
      .next (s.setSt (s.reg x)) := rfl

theorem exec_addI (x : Reg) :
    exec (.addI x) s =
      formAddr s (s.index.toNat + (s.reg x).toNat) s fun e s1 => .next (s1.setIndex e) := rfl

theorem exec_ldF (x : Reg) :
    exec (.ldF x) s =
      .next (s.setIndex (fontBase + 5 * (s.reg x).toNat)) := rfl

theorem exec_ldB (x : Reg) :
    exec (.ldB x) s =
      writeBlock s s.index.toNat (bcdDigits (s.reg x)) s := rfl

theorem exec_ldMemVx (x : Reg) :
    exec (.ldMemVx x) s =
      writeBlock s s.index.toNat (s.regBlock x) s := rfl

theorem exec_ldVxMem (x : Reg) :
    exec (.ldVxMem x) s =
      readBlock s s.index.toNat (List.range (x.toNat + 1)) s fun bs s1 => .next (s1.setRegsFrom 0 bs) := rfl

/-! ## Every instruction -/

/-- What no instruction writes (R19); reports are only added (R47), and memory is stored to by blocks of bytes (R60). The other
parts are free here. -/
structure ExecFrame (s t : State) : Prop where
  params : t.params = s.params
  key : t.key = s.key
  accI : t.accI = s.accI
  accF : t.accF = s.accF
  stopped : t.stopped = s.stopped
  loadOpen : t.loadOpen = s.loadOpen
  script : t.script = s.script
  redraws : t.redraws = s.redraws
  shown : t.shown = s.shown
  diag : ∃ es, t.diag = s.diag ++ es
  mem : ∃ base kbs, t.mem = blockMem s.params base kbs s.mem

variable {s} {v : Vector Byte 16} {index pc : Word} {stack : Vector Word 16} {sp : Fin 17} {dt st : Byte} {fb : Frame} {run : Run}
  {draws : Nat}

/-- An instruction that neither reports nor stores. -/
theorem execFrame_quiet : ExecFrame s
    { s with
      v := v, index := index, pc := pc, stack := stack, sp := sp, dt := dt, st := st, fb := fb, run := run, draws := draws } :=
  ⟨rfl, rfl, rfl, rfl, rfl, rfl, rfl, rfl, rfl, ⟨[], (List.append_nil _).symm⟩, ⟨0, [], rfl⟩⟩

/-- An instruction that may report and does not store. -/
theorem execFrame_reports {es : List Event} : ExecFrame s
    { s with
      v := v, index := index, pc := pc, stack := stack, sp := sp, dt := dt, st := st, fb := fb, run := run, draws := draws
      diag := s.diag ++ es } :=
  ⟨rfl, rfl, rfl, rfl, rfl, rfl, rfl, rfl, rfl, ⟨es, rfl⟩, ⟨0, [], rfl⟩⟩

/-- An instruction that reports and stores. -/
theorem execFrame_stores {es : List Event} {base : Nat} {kbs : List (Nat × Byte)} : ExecFrame s
    { s with mem := blockMem s.params base kbs s.mem, diag := s.diag ++ es } :=
  ⟨rfl, rfl, rfl, rfl, rfl, rfl, rfl, rfl, rfl, ⟨es, rfl⟩, ⟨base, kbs, rfl⟩⟩

variable (s)

/-- A next state within the frame, or a fault: what `exec` can answer. -/
abbrev ExecAnswer (r : Result) : Prop := (∃ t, r = .next t ∧ ExecFrame s t) ∨ ∃ f, r = .fault f

theorem skipIf_answer (c : Bool) : ExecAnswer s (skipIf c s) := by
  cases c with
  | false => exact .inl ⟨s, rfl, execFrame_quiet⟩
  | true =>
    rcases formAddr_cases s (s.pc.toNat + 2) s (fun p s1 => .next (s1.setPc p)) with e | e
    · exact .inl ⟨_, e, execFrame_reports⟩
    · exact .inr ⟨_, e⟩

theorem push_answer (w : Word) (p : Nat) :
    ExecAnswer s (push s w s (fun s1 => .next (s1.setPc p)) (fun s1 => .next s1)) := by
  by_cases h : s.sp.val < 16
  · exact .inl ⟨_, push_ok h, execFrame_quiet⟩
  · cases hp : s.params.stackPolicy with
    | clamp => exact .inl ⟨_, push_overflow (by omega) hp, execFrame_reports⟩
    | fault => exact .inr ⟨_, push_fault (by omega) hp⟩

theorem pop_answer : ExecAnswer s (pop s s (fun v s1 => .next (s1.setPc v.toNat)) (fun s1 => .next s1)) := by
  by_cases h : s.sp.val = 0
  · cases hp : s.params.stackPolicy with
    | clamp => exact .inl ⟨_, pop_underflow h hp, execFrame_reports⟩
    | fault => exact .inr ⟨_, pop_fault h hp⟩
  · exact .inl ⟨_, pop_ok h, execFrame_quiet⟩

theorem writeBlock_answer (base : Nat) (kbs : List (Nat × Byte)) : ExecAnswer s (writeBlock s base kbs s) := by
  rcases writeBlock_cases s base kbs s with e | ⟨_, e⟩
  · exact .inl ⟨_, e, execFrame_stores⟩
  · exact .inr ⟨_, e⟩

/-- All that an instruction can do: it answers a next state within the frame, or a fault, and never a refusal. -/
theorem exec_cases (i : Instr) : ExecAnswer s (exec i s) := by
  cases i with
  | cls | jp | ldImm | addImm | ldReg | orReg | andReg | xorReg | addReg | subReg | shr | subn | shl | ldI | rnd | ldVxDt
  | ldDtVx | ldStVx | ldF => exact .inl ⟨_, rfl, execFrame_quiet⟩
  | seImm | sneImm | seReg | sneReg | skp | sknp => exact skipIf_answer s _
  | ret => exact pop_answer s
  | call nnn => exact push_answer s _ _
  | ldB | ldMemVx => exact writeBlock_answer s _ _
  | jpV0 nnn =>
    rcases formAddr_cases s (nnn.toNat + (s.reg 0x0#4).toNat) s (fun p s1 => .next (s1.setPc p)) with e | e
    · exact .inl ⟨_, e, execFrame_reports⟩
    · exact .inr ⟨_, e⟩
  | addI x =>
    rcases formAddr_cases s (s.index.toNat + (s.reg x).toNat) s (fun e s1 => .next (s1.setIndex e)) with e | e
    · exact .inl ⟨_, e, execFrame_reports⟩
    · exact .inr ⟨_, e⟩
  | ldVxK x =>
    rcases h : s.lowestKey with _ | k
    · exact .inl ⟨s.setRun (.waitKey x), by rw [exec_ldVxK, h], execFrame_quiet⟩
    · exact .inl ⟨s.setReg x (trunc8 k), by rw [exec_ldVxK, h], execFrame_quiet⟩
  | drw x y n =>
    rcases readBlock_cases s s.index.toNat (List.range n.toNat) s (fun rows s1 =>
      let drawn := drawRows (s.originCol x) (s.originRow y) rows s1.fb false
      .next ((s1.setFb drawn.1).setReg vF (flagByte drawn.2))) with e | ⟨_, e⟩
    · exact .inl ⟨_, e, execFrame_reports⟩
    · exact .inr ⟨_, e⟩
  | ldVxMem x =>
    rcases readBlock_cases s s.index.toNat (List.range (x.toNat + 1)) s (fun bs s1 => .next (s1.setRegsFrom 0 bs))
      with e | ⟨_, e⟩
    · refine .inl ⟨_, e, ?_⟩
      rw [State.setRegsFrom_eq]
      exact execFrame_reports
    · exact .inr ⟨_, e⟩

end Sys2Proof.Machine
end

