-- ==== Sys2Proof/Laws/PerInstr.lean ====
section
/-! SUPPORT. The per-instruction family FixedBits: the word the encoder gives an instruction has, in every bit range that
spec/opcode_table.json fixes for its row, the value the table gives. The table's `fixed` entries are copied here row by row,
apart from the encoder. -/

namespace Sys2Proof.Laws.FixedBits

/-- A `fixed` entry of a row of spec/opcode_table.json: bits hi to lo hold a value. -/
structure Range where
  hi : Nat
  lo : Nat
  value : Nat
deriving DecidableEq, Repr

/-- The `fixed` entries of an instruction's row. -/
def fixed : Instr → List Range
  | .cls => [⟨15, 0, 224⟩]
  | .ret => [⟨15, 0, 238⟩]
  | .jp _ => [⟨15, 12, 1⟩]
  | .call _ => [⟨15, 12, 2⟩]
  | .seImm _ _ => [⟨15, 12, 3⟩]
  | .sneImm _ _ => [⟨15, 12, 4⟩]
  | .seReg _ _ => [⟨3, 0, 0⟩, ⟨15, 12, 5⟩]
  | .ldImm _ _ => [⟨15, 12, 6⟩]
  | .addImm _ _ => [⟨15, 12, 7⟩]
  | .ldReg _ _ => [⟨3, 0, 0⟩, ⟨15, 12, 8⟩]
  | .orReg _ _ => [⟨3, 0, 1⟩, ⟨15, 12, 8⟩]
  | .andReg _ _ => [⟨3, 0, 2⟩, ⟨15, 12, 8⟩]
  | .xorReg _ _ => [⟨3, 0, 3⟩, ⟨15, 12, 8⟩]
  | .addReg _ _ => [⟨3, 0, 4⟩, ⟨15, 12, 8⟩]
  | .subReg _ _ => [⟨3, 0, 5⟩, ⟨15, 12, 8⟩]
  | .shr _ _ => [⟨3, 0, 6⟩, ⟨15, 12, 8⟩]
  | .subn _ _ => [⟨3, 0, 7⟩, ⟨15, 12, 8⟩]
  | .shl _ _ => [⟨3, 0, 14⟩, ⟨15, 12, 8⟩]
  | .sneReg _ _ => [⟨3, 0, 0⟩, ⟨15, 12, 9⟩]
  | .ldI _ => [⟨15, 12, 10⟩]
  | .jpV0 _ => [⟨15, 12, 11⟩]
  | .rnd _ _ => [⟨15, 12, 12⟩]
  | .drw _ _ _ => [⟨15, 12, 13⟩]
  | .skp _ => [⟨7, 0, 158⟩, ⟨15, 12, 14⟩]
  | .sknp _ => [⟨7, 0, 161⟩, ⟨15, 12, 14⟩]
  | .ldVxDt _ => [⟨7, 0, 7⟩, ⟨15, 12, 15⟩]
  | .ldVxK _ => [⟨7, 0, 10⟩, ⟨15, 12, 15⟩]
  | .ldDtVx _ => [⟨7, 0, 21⟩, ⟨15, 12, 15⟩]
  | .ldStVx _ => [⟨7, 0, 24⟩, ⟨15, 12, 15⟩]
  | .addI _ => [⟨7, 0, 30⟩, ⟨15, 12, 15⟩]
  | .ldF _ => [⟨7, 0, 41⟩, ⟨15, 12, 15⟩]
  | .ldB _ => [⟨7, 0, 51⟩, ⟨15, 12, 15⟩]
  | .ldMemVx _ => [⟨7, 0, 85⟩, ⟨15, 12, 15⟩]
  | .ldVxMem _ => [⟨7, 0, 101⟩, ⟨15, 12, 15⟩]

/-- The instruction's word holds the table's value in every range the table fixes. -/
def Statement (i : Instr) : Prop :=
  ∀ f ∈ fixed i, (encode i).toNat / 2 ^ f.lo % 2 ^ (f.hi + 1 - f.lo) = f.value

theorem of_class {w : Word} {v : Nat} (h : w.toNat / 2 ^ 12 % 2 ^ 4 = v) :
    ∀ f ∈ [(⟨15, 12, v⟩ : Range)], w.toNat / 2 ^ f.lo % 2 ^ (f.hi + 1 - f.lo) = f.value := by
  simpa using h

theorem of_low_class {w : Word} {hi u v : Nat} (h1 : w.toNat % 2 ^ (hi + 1) = u) (h2 : w.toNat / 2 ^ 12 % 2 ^ 4 = v) :
    ∀ f ∈ [(⟨hi, 0, u⟩ : Range), ⟨15, 12, v⟩], w.toNat / 2 ^ f.lo % 2 ^ (f.hi + 1 - f.lo) = f.value := by
  simpa using And.intro h1 h2

theorem class_NNN (c : BitVec 4) (nnn : Addr12) : (encNNN c nnn).toNat / 2 ^ 12 % 2 ^ 4 = c.toNat := by
  rw [toNat_encNNN]
  omega

theorem class_XKK (c : BitVec 4) (x : Reg) (kk : Byte) : (encXKK c x kk).toNat / 2 ^ 12 % 2 ^ 4 = c.toNat := by
  rw [toNat_encXKK]
  omega

theorem low_XKK (c : BitVec 4) (x : Reg) (kk : Byte) : (encXKK c x kk).toNat % 2 ^ (7 + 1) = kk.toNat := by
  rw [toNat_encXKK]
  omega

theorem class_XYN (c : BitVec 4) (x y : Reg) (n : Nibble) : (encXYN c x y n).toNat / 2 ^ 12 % 2 ^ 4 = c.toNat := by
  rw [toNat_encXYN]
  omega

theorem low_XYN (c : BitVec 4) (x y : Reg) (n : Nibble) : (encXYN c x y n).toNat % 2 ^ (3 + 1) = n.toNat := by
  rw [toNat_encXYN]
  omega

theorem cls : Statement .cls := by unfold Statement; decide
theorem ret : Statement .ret := by unfold Statement; decide
theorem jp (nnn : Addr12) : Statement (.jp nnn) := of_class (class_NNN ..)
theorem call (nnn : Addr12) : Statement (.call nnn) := of_class (class_NNN ..)
theorem seImm (x : Reg) (kk : Byte) : Statement (.seImm x kk) := of_class (class_XKK ..)
theorem sneImm (x : Reg) (kk : Byte) : Statement (.sneImm x kk) := of_class (class_XKK ..)
theorem seReg (x y : Reg) : Statement (.seReg x y) := of_low_class (low_XYN ..) (class_XYN ..)
theorem ldImm (x : Reg) (kk : Byte) : Statement (.ldImm x kk) := of_class (class_XKK ..)
theorem addImm (x : Reg) (kk : Byte) : Statement (.addImm x kk) := of_class (class_XKK ..)
theorem ldReg (x y : Reg) : Statement (.ldReg x y) := of_low_class (low_XYN ..) (class_XYN ..)
theorem orReg (x y : Reg) : Statement (.orReg x y) := of_low_class (low_XYN ..) (class_XYN ..)
theorem andReg (x y : Reg) : Statement (.andReg x y) := of_low_class (low_XYN ..) (class_XYN ..)
theorem xorReg (x y : Reg) : Statement (.xorReg x y) := of_low_class (low_XYN ..) (class_XYN ..)
theorem addReg (x y : Reg) : Statement (.addReg x y) := of_low_class (low_XYN ..) (class_XYN ..)
theorem subReg (x y : Reg) : Statement (.subReg x y) := of_low_class (low_XYN ..) (class_XYN ..)
theorem shr (x y : Reg) : Statement (.shr x y) := of_low_class (low_XYN ..) (class_XYN ..)
theorem subn (x y : Reg) : Statement (.subn x y) := of_low_class (low_XYN ..) (class_XYN ..)
theorem shl (x y : Reg) : Statement (.shl x y) := of_low_class (low_XYN ..) (class_XYN ..)
theorem sneReg (x y : Reg) : Statement (.sneReg x y) := of_low_class (low_XYN ..) (class_XYN ..)
theorem ldI (nnn : Addr12) : Statement (.ldI nnn) := of_class (class_NNN ..)
theorem jpV0 (nnn : Addr12) : Statement (.jpV0 nnn) := of_class (class_NNN ..)
theorem rnd (x : Reg) (kk : Byte) : Statement (.rnd x kk) := of_class (class_XKK ..)
theorem drw (x y : Reg) (n : Nibble) : Statement (.drw x y n) := of_class (class_XYN ..)
theorem skp (x : Reg) : Statement (.skp x) := of_low_class (low_XKK ..) (class_XKK ..)
theorem sknp (x : Reg) : Statement (.sknp x) := of_low_class (low_XKK ..) (class_XKK ..)
theorem ldVxDt (x : Reg) : Statement (.ldVxDt x) := of_low_class (low_XKK ..) (class_XKK ..)
theorem ldVxK (x : Reg) : Statement (.ldVxK x) := of_low_class (low_XKK ..) (class_XKK ..)
theorem ldDtVx (x : Reg) : Statement (.ldDtVx x) := of_low_class (low_XKK ..) (class_XKK ..)
theorem ldStVx (x : Reg) : Statement (.ldStVx x) := of_low_class (low_XKK ..) (class_XKK ..)
theorem addI (x : Reg) : Statement (.addI x) := of_low_class (low_XKK ..) (class_XKK ..)
theorem ldF (x : Reg) : Statement (.ldF x) := of_low_class (low_XKK ..) (class_XKK ..)
theorem ldB (x : Reg) : Statement (.ldB x) := of_low_class (low_XKK ..) (class_XKK ..)
theorem ldMemVx (x : Reg) : Statement (.ldMemVx x) := of_low_class (low_XKK ..) (class_XKK ..)
theorem ldVxMem (x : Reg) : Statement (.ldVxMem x) := of_low_class (low_XKK ..) (class_XKK ..)

end Sys2Proof.Laws.FixedBits
end

