-- ==== Sys2Proof/Tests/Slice0.lean ====
section
/-! SUPPORT. The model's own tests: the well-formedness smoke, every constructor's decoding from a word written out from the encoding
table of spec/30_encoding.md, one-step tests whose expected values are the vectors V1 to V107 of spec/95_test_vectors.md, and for
each obligation with hypotheses a state and operands that meet them. -/

namespace Sys2Proof.Tests

open Sys2Proof Sys2Proof.Machine

/-! ## Helpers -/

/-- The reset state with some registers set. -/
def withRegs (l : List (Reg × Byte)) : State := l.foldl (fun s p => s.setReg p.1 p.2) State.reset

/-- A state with some bytes of memory stored. -/
def withBytes (l : List (Nat × Byte)) (s : State) : State := l.foldl (fun s p => s.writeByte p.1 p.2) s

/-- The key state with exactly the keys of a list pressed. -/
def keysDown (l : List Nat) : Keys := Vector.ofFn fun k => l.contains k.val

/-- An answer is a next state that passes a check. -/
def answers (r : Result) (check : State → Bool) : Bool :=
  match r with
  | .next t => check t
  | .fault _ => false
  | .refused _ => false

/-- An answer is this fault. -/
def faults (r : Result) (f : Fault) : Bool :=
  match r with
  | .next _ => false
  | .fault g => g == f
  | .refused _ => false

theorem exists_next {r : Result} {check : State → Bool} (h : answers r check = true) :
    ∃ t, r = .next t ∧ check t = true := by
  cases r with
  | next t => exact ⟨t, rfl, h⟩
  | fault => exact absurd h (by simp [answers])
  | refused => exact absurd h (by simp [answers])

/-- One step on a word placed at PC. -/
def stepWord (s : State) (w : Nat) : Result := step (s.withFetchWord 16 w)

/-- Row r of the display buffer as a number: column c is bit c. -/
def row (s : State) (r : Nat) : Nat := ((s.fb[r]?).getD 0#64).toNat

/-! ## Well-formedness -/

theorem test_wf_rejects_recognized_unknown : Op.wf (.unknown 0x00E0#16) = false := by decide

theorem test_wf_rejects_each_class :
    ([0x00EE#16, 0x5120#16, 0x812E#16, 0x9120#16, 0xE19E#16, 0xE1A1#16, 0xF107#16, 0xF165#16].map fun w =>
      Op.wf (.unknown w)) = List.replicate 8 false := by decide

/-- V6 to V9. -/
theorem test_wf_accepts_unknown :
    ([0x0123#16, 0x5121#16, 0x8128#16, 0x812F#16, 0xE19F#16, 0xF100#16].map fun w =>
      (Op.wf (.unknown w), decide (decode w = .unknown w))) = List.replicate 6 (true, true) := by decide

/-! ## Decoding, from words written out bit by bit (R76, R80 to R84, R86, R92) -/

theorem test_decode_classes_0_to_4 :
    decodeBytes [0b00000000#8, 0b11100000#8] = .op (.instr .cls) [] ∧
    decodeBytes [0b00000000#8, 0b11101110#8] = .op (.instr .ret) [] ∧
    decodeBytes [0b00010010#8, 0b00000100#8] = .op (.instr (.jp 0x204#12)) [] ∧
    decodeBytes [0b00100011#8, 0b00000000#8] = .op (.instr (.call 0x300#12)) [] ∧
    decodeBytes [0b00110011#8, 0b00010010#8] = .op (.instr (.seImm 0x3#4 0x12#8)) [] ∧
    decodeBytes [0b01000011#8, 0b00010010#8] = .op (.instr (.sneImm 0x3#4 0x12#8)) [] := by decide

theorem test_decode_classes_5_to_7_and_9 :
    decodeBytes [0b01010001#8, 0b00100000#8] = .op (.instr (.seReg 0x1#4 0x2#4)) [] ∧
    decodeBytes [0b01101010#8, 0b10011100#8] = .op (.instr (.ldImm 0xA#4 0x9C#8)) [] ∧
    decodeBytes [0b01110000#8, 0b11111111#8] = .op (.instr (.addImm 0x0#4 0xFF#8)) [] ∧
    decodeBytes [0b10010001#8, 0b00100000#8] = .op (.instr (.sneReg 0x1#4 0x2#4)) [] := by decide

theorem test_decode_class_8 :
    decodeBytes [0b10000001#8, 0b00100000#8] = .op (.instr (.ldReg 0x1#4 0x2#4)) [] ∧
    decodeBytes [0b10000001#8, 0b00100001#8] = .op (.instr (.orReg 0x1#4 0x2#4)) [] ∧
    decodeBytes [0b10000001#8, 0b00100010#8] = .op (.instr (.andReg 0x1#4 0x2#4)) [] ∧
    decodeBytes [0b10000001#8, 0b00100011#8] = .op (.instr (.xorReg 0x1#4 0x2#4)) [] ∧
    decodeBytes [0b10000001#8, 0b00100100#8] = .op (.instr (.addReg 0x1#4 0x2#4)) [] ∧
    decodeBytes [0b10000001#8, 0b00100101#8] = .op (.instr (.subReg 0x1#4 0x2#4)) [] ∧
    decodeBytes [0b10000001#8, 0b00100110#8] = .op (.instr (.shr 0x1#4 0x2#4)) [] ∧
    decodeBytes [0b10000001#8, 0b00100111#8] = .op (.instr (.subn 0x1#4 0x2#4)) [] ∧
    decodeBytes [0b10000001#8, 0b00101110#8] = .op (.instr (.shl 0x1#4 0x2#4)) [] := by decide

theorem test_decode_classes_A_to_E :
    decodeBytes [0b10100000#8, 0b01010000#8] = .op (.instr (.ldI 0x050#12)) [] ∧
    decodeBytes [0b10110011#8, 0b00000000#8] = .op (.instr (.jpV0 0x300#12)) [] ∧
    decodeBytes [0b11000000#8, 0b00001111#8] = .op (.instr (.rnd 0x0#4 0x0F#8)) [] ∧
    decodeBytes [0b11010000#8, 0b00010101#8] = .op (.instr (.drw 0x0#4 0x1#4 0x5#4)) [] ∧
    decodeBytes [0b11100000#8, 0b10011110#8] = .op (.instr (.skp 0x0#4)) [] ∧
    decodeBytes [0b11100111#8, 0b10100001#8] = .op (.instr (.sknp 0x7#4)) [] := by decide

theorem test_decode_class_F :
    decodeBytes [0b11110001#8, 0b00000111#8] = .op (.instr (.ldVxDt 0x1#4)) [] ∧
    decodeBytes [0b11110011#8, 0b00001010#8] = .op (.instr (.ldVxK 0x3#4)) [] ∧
    decodeBytes [0b11110000#8, 0b00010101#8] = .op (.instr (.ldDtVx 0x0#4)) [] ∧
    decodeBytes [0b11110000#8, 0b00011000#8] = .op (.instr (.ldStVx 0x0#4)) [] ∧
    decodeBytes [0b11110000#8, 0b00011110#8] = .op (.instr (.addI 0x0#4)) [] ∧
    decodeBytes [0b11110010#8, 0b00101001#8] = .op (.instr (.ldF 0x2#4)) [] ∧
    decodeBytes [0b11111010#8, 0b00110011#8] = .op (.instr (.ldB 0xA#4)) [] ∧
    decodeBytes [0b11110001#8, 0b01010101#8] = .op (.instr (.ldMemVx 0x1#4)) [] ∧
    decodeBytes [0b11110010#8, 0b01100101#8] = .op (.instr (.ldVxMem 0x2#4)) [] := by decide

theorem test_decode_truncated : decodeBytes [0x12#8] = .truncated ∧ decodeBytes [] = .truncated := by decide

/-! ## Fetch, advance and the unrecognized opcode -/

/-- V2. -/
theorem test_unknown_reports :
    answers (stepWord { State.reset with pc := 0x300#16 } 0x0000) (fun t =>
      t.pc == 0x302#16 && t.diag == [.unknownOpcode 0x300 0x0000#16]) = true := by decide

/-- V3. -/
theorem test_advance_wraps :
    answers (stepWord { State.reset with pc := 0xFFE#16 } 0x1234) (fun t =>
      t.pc == 0x234#16 && t.diag == [.outOfBoundsAddress 0x1000 0xFFE]) = true := by decide

/-- V4. -/
theorem test_fetch_wraps :
    answers (stepWord { State.reset with pc := 0xFFF#16 } 0x1234) (fun t =>
      t.pc == 0x234#16 && t.diag == [.outOfBoundsAddress 0x1000 0xFFF, .outOfBoundsAddress 0x1001 0xFFF]) = true := by decide

/-- V5. -/
theorem test_odd_address :
    answers (stepWord { State.reset with pc := 0x201#16 } 0x60AA) (fun t =>
      t.pc == 0x203#16 && t.reg 0 == 0xAA#8 && t.diag == []) = true := by decide

/-- V107: from reset with nothing placed. -/
theorem test_first_slot_of_reset :
    answers (step State.reset) (fun t => t.pc == 0x202#16 && t.diag == [.unknownOpcode 0x200 0x0000#16]) = true := by decide

/-! ## Control transfer -/

/-- V11. -/
theorem test_jp : answers (stepWord State.reset 0x1204) (fun t => t.pc == 0x204#16) = true := by decide

/-- V12. -/
theorem test_call :
    answers (stepWord State.reset 0x2300) (fun t =>
      t.pc == 0x300#16 && t.sp == 1 && t.stack[0] == 0x202#16 && t.diag == []) = true := by decide

/-- V15. -/
theorem test_call_overflow :
    answers (stepWord { State.reset with sp := 16 } 0x2300) (fun t =>
      t.pc == 0x202#16 && t.sp == 16 && t.stack == State.reset.stack && t.diag == [.stackOverflow 0x200]) = true := by decide

/-- V13. -/
theorem test_ret :
    answers (stepWord { State.reset with pc := 0x300#16, sp := 1, stack := State.reset.stack.set 0 0x202#16 } 0x00EE) (fun t =>
      t.pc == 0x202#16 && t.sp == 0 && t.stack[0] == 0x202#16) = true := by decide

/-- V14. -/
theorem test_ret_underflow :
    answers (stepWord State.reset 0x00EE) (fun t =>
      t.pc == 0x202#16 && t.sp == 0 && t.diag == [.stackUnderflow 0x200]) = true := by decide

/-- V17. -/
theorem test_jpV0 : answers (stepWord (withRegs [(0, 0x10)]) 0xB300) (fun t => t.pc == 0x310#16) = true := by decide

/-- V18. -/
theorem test_jpV0_wraps :
    answers (stepWord (withRegs [(0, 0xFF)]) 0xBFFF) (fun t =>
      t.pc == 0x0FE#16 && t.diag == [.outOfBoundsAddress 0x10FE 0x200]) = true := by decide

/-- V19. -/
theorem test_seImm_taken : answers (stepWord (withRegs [(3, 0x12)]) 0x3312) (fun t => t.pc == 0x204#16) = true := by decide

/-- V20. -/
theorem test_seImm_left : answers (stepWord (withRegs [(3, 0x13)]) 0x3312) (fun t => t.pc == 0x202#16) = true := by decide

/-- V21. -/
theorem test_sneImm_taken : answers (stepWord (withRegs [(3, 0x13)]) 0x4312) (fun t => t.pc == 0x204#16) = true := by decide

/-- V22. -/
theorem test_seReg_taken :
    answers (stepWord (withRegs [(1, 0x40), (2, 0x40)]) 0x5120) (fun t => t.pc == 0x204#16) = true := by decide

/-- V23. -/
theorem test_sneReg_taken :
    answers (stepWord (withRegs [(1, 0x40), (2, 0x41)]) 0x9120) (fun t => t.pc == 0x204#16) = true := by decide

/-- V24. -/
theorem test_sneReg_same : answers (stepWord (withRegs [(1, 0x40)]) 0x9110) (fun t => t.pc == 0x202#16) = true := by decide

/-! ## ALU -/

/-- V28. -/
theorem test_ldImm : answers (stepWord State.reset 0x6A9C) (fun t => t.reg 0xA == 0x9C#8) = true := by decide

/-- V29. -/
theorem test_addImm :
    answers (stepWord (withRegs [(0, 0xFF), (0xF, 0x55)]) 0x7001) (fun t => t.reg 0 == 0x00#8 && t.reg 0xF == 0x55#8) = true := by
  decide

/-- V31. -/
theorem test_ldReg : answers (stepWord (withRegs [(2, 0x7A)]) 0x8120) (fun t => t.reg 1 == 0x7A#8) = true := by decide

/-- V32. -/
theorem test_orReg :
    answers (stepWord (withRegs [(1, 0xF0), (2, 0x0F), (0xF, 0x55)]) 0x8121) (fun t =>
      t.reg 1 == 0xFF#8 && t.reg 0xF == 0x55#8) = true := by decide

/-- V33. -/
theorem test_andReg :
    answers (stepWord (withRegs [(1, 0xF0), (2, 0x3C)]) 0x8122) (fun t => t.reg 1 == 0x30#8) = true := by decide

/-- V34. -/
theorem test_xorReg :
    answers (stepWord (withRegs [(1, 0xFF), (2, 0x0F)]) 0x8123) (fun t => t.reg 1 == 0xF0#8) = true := by decide

/-- V37. -/
theorem test_addReg_carry :
    answers (stepWord (withRegs [(1, 0x80), (2, 0x80)]) 0x8124) (fun t => t.reg 1 == 0x00#8 && t.reg 0xF == 1#8) = true := by
  decide

/-- V39. -/
theorem test_addReg_flag_last :
    answers (stepWord (withRegs [(0xF, 0xF0), (1, 0x20)]) 0x8F14) (fun t => t.reg 0xF == 1#8) = true := by decide

/-- V42. -/
theorem test_subReg_borrow :
    answers (stepWord (withRegs [(1, 0x03), (2, 0x05)]) 0x8125) (fun t => t.reg 1 == 0xFE#8 && t.reg 0xF == 0#8) = true := by
  decide

/-- V43. -/
theorem test_subReg_equal :
    answers (stepWord (withRegs [(1, 0x42), (2, 0x42)]) 0x8125) (fun t => t.reg 1 == 0#8 && t.reg 0xF == 1#8) = true := by decide

/-- V45. -/
theorem test_subn :
    answers (stepWord (withRegs [(1, 0x03), (2, 0x05)]) 0x8127) (fun t => t.reg 1 == 2#8 && t.reg 0xF == 1#8) = true := by decide

/-- V46. -/
theorem test_subn_borrow :
    answers (stepWord (withRegs [(1, 0x05), (2, 0x03)]) 0x8127) (fun t => t.reg 1 == 0xFE#8 && t.reg 0xF == 0#8) = true := by
  decide

/-- V51. -/
theorem test_shr_vy :
    answers (stepWord { withRegs [(1, 0x04), (2, 0x05)] with params := { defaultParams with shiftSource := .vy } } 0x8126)
      (fun t => t.reg 1 == 2#8 && t.reg 0xF == 1#8 && t.reg 2 == 5#8) = true := by decide

/-- V52. -/
theorem test_shr_vx :
    answers (stepWord (withRegs [(1, 0x04), (2, 0x05)]) 0x8126) (fun t => t.reg 1 == 2#8 && t.reg 0xF == 0#8) = true := by decide

/-- V53. -/
theorem test_shl : answers (stepWord (withRegs [(1, 0x81)]) 0x810E) (fun t => t.reg 1 == 2#8 && t.reg 0xF == 1#8) = true := by
  decide

/-- V56. -/
theorem test_shl_flag_last : answers (stepWord (withRegs [(0xF, 0x80)]) 0x8F0E) (fun t => t.reg 0xF == 1#8) = true := by decide

/-- V58: the byte is free, so only its masking by 0 and the draw are fixed. -/
theorem test_rnd_draws (s : State) : exec (.rnd 0 0) s = .next (s.takeDraw.setReg 0 (s.nextRandom &&& 0#8)) := rfl

/-! ## Index register and block transfers -/

/-- V60. -/
theorem test_ldI : answers (stepWord State.reset 0xA050) (fun t => t.index == 0x050#16) = true := by decide

/-- V62. -/
theorem test_addI_wraps :
    answers (stepWord { withRegs [(0, 1)] with index := 0xFFF#16 } 0xF01E) (fun t =>
      t.index == 0#16 && t.reg 0xF == 0#8 && t.diag == [.outOfBoundsAddress 0x1000 0x200]) = true := by decide

/-- V65. -/
theorem test_ldF : answers (stepWord (withRegs [(0, 0x0F)]) 0xF029) (fun t => t.index == 0x09B#16) = true := by decide

/-- V67. -/
theorem test_ldF_past_font : answers (stepWord (withRegs [(0, 0xFF)]) 0xF029) (fun t => t.index == 0x54B#16) = true := by decide

/-- V69. -/
theorem test_ldB :
    answers (stepWord { withRegs [(0, 255)] with index := 0x300#16 } 0xF033) (fun t =>
      [0x300, 0x301, 0x302].map t.readByte == [2#8, 5#8, 5#8] && t.index == 0x300#16) = true := by decide

/-- V71. -/
theorem test_ldB_wraps :
    answers (stepWord { withRegs [(0, 156)] with index := 0xFFE#16, pc := 0x300#16 } 0xF033) (fun t =>
      [0xFFE, 0xFFF, 0].map t.readByte == [1#8, 5#8, 6#8] && t.diag == [.outOfBoundsAddress 0x1000 0x300]) = true := by decide

/-- V72. -/
theorem test_ldMemVx :
    answers (stepWord { withRegs [(0, 0x11), (1, 0x22), (2, 0x33)] with index := 0x300#16 } 0xF155) (fun t =>
      [0x300, 0x301, 0x302].map t.readByte == [0x11#8, 0x22#8, 0#8] && t.index == 0x300#16) = true := by decide

/-- V73. -/
theorem test_ldMemVx_wraps :
    answers (stepWord { withRegs [(0, 1), (1, 2), (2, 3)] with index := 0xFFE#16, pc := 0x300#16 } 0xF255) (fun t =>
      [0xFFE, 0xFFF, 0].map t.readByte == [1#8, 2#8, 3#8] && t.diag == [.outOfBoundsAddress 0x1000 0x300]) = true := by decide

/-- V74. -/
theorem test_ldVxMem :
    answers (stepWord (withBytes [(0x300, 1), (0x301, 5), (0x302, 6)] { State.reset with index := 0x300#16 }) 0xF265) (fun t =>
      [t.reg 0, t.reg 1, t.reg 2, t.reg 3] == [1#8, 5#8, 6#8, 0#8] && t.index == 0x300#16) = true := by decide

/-- V75, by the last two registers. -/
theorem test_ldVxMem_all :
    answers (stepWord (withBytes [(0x30E, 0x0E), (0x30F, 0x0F)] { State.reset with index := 0x300#16 }) 0xFF65) (fun t =>
      t.reg 0xE == 0x0E#8 && t.reg 0xF == 0x0F#8) = true := by decide

/-! ## Display -/

/-- V85. -/
theorem test_cls :
    answers (stepWord { State.reset with fb := Frame.xorPixel Frame.clear 0 0 } 0x00E0) (fun t => t.fb == Frame.clear) = true := by
  decide

/-- V78: glyph 0 at column 3, row 1 (origin reduced). -/
theorem test_drw_glyph :
    answers (stepWord { withRegs [(0, 67), (1, 33)] with index := 0x050#16 } 0xD015) (fun t =>
      (List.range 32).map (row t) == [0, 0b1111000, 0b1001000, 0b1001000, 0b1001000, 0b1111000] ++ List.replicate 26 0 &&
        t.reg 0xF == 0#8) = true := by decide

/-- V81, the second draw, from the buffer the first leaves: pixel 1 is erased. -/
theorem test_drw_collision :
    answers (stepWord
      (withBytes [(0x300, 0x60)] { State.reset with index := 0x300#16, fb := Frame.clear.set 0 0b11#64 }) 0xD011)
      (fun t => row t 0 == 0b101 && t.reg 0xF == 1#8) = true := by decide

/-! ## Input and timers -/

/-- V86, V87. -/
theorem test_sknp :
    answers (stepWord (withRegs [(0, 5)]) 0xE0A1) (fun t => t.pc == 0x204#16) = true ∧
    answers (stepWord { withRegs [(0, 5)] with key := keysDown [5] } 0xE0A1) (fun t => t.pc == 0x202#16) = true := by decide

/-- V88. -/
theorem test_skp_no_such_key :
    answers (stepWord { withRegs [(0, 0x15)] with key := Vector.replicate 16 true } 0xE09E) (fun t => t.pc == 0x202#16) = true := by
  decide

/-- V89. -/
theorem test_skp_low_nibble :
    answers (stepWord { withRegs [(0, 0x15)] with
      key := keysDown [5], params := { defaultParams with keyIndexPolicy := .lowNibble } } 0xE09E)
      (fun t => t.pc == 0x204#16) = true := by decide

/-- V90. -/
theorem test_ldVxK_waits :
    answers (stepWord (withRegs [(3, 0x44)]) 0xF30A) (fun t =>
      t.run == .waitKey 3 && t.pc == 0x202#16 && t.reg 3 == 0x44#8) = true := by decide

/-- V93. -/
theorem test_ldVxK_at_once :
    answers (stepWord { State.reset with key := keysDown [9] } 0xF30A) (fun t =>
      t.run == .running && t.pc == 0x202#16 && t.reg 3 == 9#8) = true := by decide

/-- V92. -/
theorem test_wait_slot_ends :
    answers (step { State.reset with run := .waitKey 3, pc := 0x202#16, key := keysDown [7, 0xC] }) (fun t =>
      t.run == .running && t.pc == 0x202#16 && t.reg 3 == 7#8 && t.diag == []) = true := by decide

/-- V97. -/
theorem test_ldVxDt : answers (stepWord { State.reset with dt := 0x3B#8 } 0xF107) (fun t => t.reg 1 == 0x3B#8) = true := by decide

/-- V96, the instruction. -/
theorem test_ldDtVx : answers (stepWord (withRegs [(0, 0x3C)]) 0xF015) (fun t => t.dt == 0x3C#8 && t.st == 0#8) = true := by decide

/-- V100, the instruction. -/
theorem test_ldStVx :
    answers (stepWord (withRegs [(0, 2)]) 0xF018) (fun t => t.st == 2#8 && t.dt == 0#8 && t.soundActive) = true := by decide

/-! ## The Scheduler, reset and load -/

/-- V98, V99. -/
theorem test_frame_tick :
    answers (step { State.reset with script := [.frameTick] }) (fun t => t.dt == 0#8 && t.st == 0#8) = true ∧
    answers (step { State.reset with script := [.frameTick], dt := 1#8, st := 3#8 }) (fun t =>
      t.dt == 0#8 && t.st == 2#8 && t.redraws == 1) = true := by decide

/-- V94, V95. -/
theorem test_frame_tick_in_wait :
    answers (step { State.reset with script := [.frameTick], dt := 5#8, run := .waitKey 3 }) (fun t =>
      t.dt == 4#8 && t.redraws == 1) = true ∧
    answers (step { State.reset with
      script := [.frameTick], dt := 5#8, run := .waitKey 3,
      params := { defaultParams with freezeFrameDuringWait := true } }) (fun t => t.dt == 5#8 && t.redraws == 0) = true := by decide

/-- V106. -/
theorem test_load :
    answers (step { State.reset with script := [.load [0x60#8, 0x05#8, 0x61#8]] }) (fun t =>
      [0x200, 0x201, 0x202, 0x203].map t.readByte == [0x60#8, 0x05#8, 0x61#8, 0#8]) = true := by decide

/-- V103. -/
theorem test_load_empty :
    answers (step { State.reset with script := [.load []] }) (fun t => t.mem == [] && t.diag == [.programEmpty]) = true := by decide

/-- V102, by the bytes at the font's edges. -/
theorem test_reset_font :
    [0x04F, 0x050, 0x09F, 0x0A0].map State.reset.readByte = [0#8, 0xF0#8, 0x80#8, 0#8] := by decide

/-! ## Witnesses: states and operands that meet the hypotheses of an obligation, clause by clause -/

/-- The default parameters with `OOB_POLICY = Fault`. -/
def oobFaults : Params := { defaultParams with oobPolicy := .fault }

/-- The default parameters with `STACK_POLICY = Fault`. -/
def stackFaults : Params := { defaultParams with stackPolicy := .fault }

theorem witness_DecodeOfEncodeIsIdentity : (Op.instr (.drw 0xF 0xF 0xF)).wf = true ∧ (Op.unknown 0x5121).wf = true := by decide

theorem witness_UnrecognizedWordsExactly : unrecognized 0x00E1 = true ∧ unrecognized 0x00E0 = false := by decide

/-- In range at the top, one above it under each policy. -/
theorem witness_AddrWrapsOrFaults :
    0xFFF ≤ 0xFFF ∧ 0xFFF < 0x1000 ∧ State.reset.params.oobPolicy = .wrap ∧ oobFaults.oobPolicy = .fault := by decide

theorem witness_CanonicalMemoriesAreEqualData :
    0xFFF < 0x1000 ∧ Memory.wf defaultParams [(0x050, 0#8), (0xFFF, 1#8)] ∧
      ¬ Memory.wf defaultParams [(0x050, 0xF0#8)] ∧ ¬ Memory.wf defaultParams [(2, 1#8), (1, 1#8)] := by decide

theorem witness_CallPushesReturnAddress :
    ({ State.reset with sp := 15 } : State).sp.val < 16 ∧ ({ State.reset with sp := 16 } : State).sp.val = 16 ∧
      State.reset.params.stackPolicy = .clamp := by decide

theorem witness_ReturnPopsIntoPc :
    0 < ({ State.reset with sp := 1 } : State).sp.val ∧ State.reset.sp.val = 0 ∧ State.reset.params.stackPolicy = .clamp := by
  decide

/-- V16 and its counterpart for 00EE; the slot after an empty script and the slot the script names. -/
theorem witness_StackFaultRecordsSlotStart :
    (let s := { State.reset with sp := 16, params := stackFaults }.withFetchWord 16 0x2300
     s.atSlot ∧ s.run = .running ∧ s.fetchOk ∧ s.params.stackPolicy = .fault ∧
       decode s.wordAtPc = .instr (.call 0x300#12) ∧ s.sp.val = 16 ∧ faults (step s) (.stackOverflow 0x200 s) = true) ∧
    (let s := { State.reset with params := stackFaults }.withFetchWord 16 0x00EE
     s.atSlot ∧ s.fetchOk ∧ decode s.wordAtPc = .instr .ret ∧ s.sp.val = 0 ∧
       faults (step s) (.stackUnderflow 0x200 s) = true) ∧
    (let s := { State.reset with params := stackFaults }.withFetchWord 16 0x00EE
     let s' := { s with script := [.slot, .frameTick] }
     s'.atSlot ∧ faults (step s') (.stackUnderflow 0x200 { s with script := [.frameTick] }) = true) := by decide

/-- 0xFFF under `Fault`, 0x10FE under `Wrap`. -/
theorem witness_JumpOffsetAddsVZero :
    AddrOk { withRegs [(0, 0x0F)] with params := oobFaults } (0xFF0 + ((withRegs [(0, 0x0F)]).reg 0).toNat) ∧
    AddrOk (withRegs [(0, 0xFF)]) (0xFFF + ((withRegs [(0, 0xFF)]).reg 0).toNat) := by decide

/-- The taken half: PC + 2 at 0xFFF under `Fault`, at 0x1000 under `Wrap`. The half that does not skip: PC at 0xFFE under `Fault`. -/
theorem witness_ImmediateSkips :
    AddrOk { State.reset with params := oobFaults, pc := 0xFFD#16 } (0xFFD + 2) ∧
    AddrOk { State.reset with pc := 0xFFE#16 } (0xFFE + 2) ∧
    answers (exec (.sneImm 0 0) { State.reset with params := oobFaults, pc := 0xFFE#16 }) (fun t => t.pc == 0xFFE#16) = true := by
  decide

theorem witness_RegisterSkips :
    AddrOk { State.reset with params := oobFaults, pc := 0xFFD#16 } (0xFFD + 2) ∧
    AddrOk { State.reset with pc := 0xFFE#16 } (0xFFE + 2) ∧
    answers (exec (.sneReg 0 1) { State.reset with params := oobFaults, pc := 0xFFF#16 }) (fun t => t.pc == 0xFFF#16) = true := by
  decide

/-- The value 0xF, and 0x10 under each policy; the half that does not skip with PC at 0xFFE under `Fault`. -/
theorem witness_KeySkips :
    (let s := { withRegs [(0, 0x0F)] with key := keysDown [0xF] }
     AddrOk s (s.pc.toNat + 2) ∧ (s.reg 0).toNat ≤ 0xF ∧ s.keyDown (s.reg 0).toNat = true) ∧
    (let s := withRegs [(0, 0x10)]
     AddrOk s (s.pc.toNat + 2) ∧ 0xF < (s.reg 0).toNat ∧ s.params.keyIndexPolicy = .notPressed) ∧
    (let s := { withRegs [(0, 0x10)] with key := keysDown [0], params := { defaultParams with keyIndexPolicy := .lowNibble } }
     AddrOk s (s.pc.toNat + 2) ∧ 0xF < (s.reg 0).toNat ∧ s.params.keyIndexPolicy = .lowNibble ∧
       s.keyDown ((s.reg 0).toNat % 0x10) = true) ∧
    answers (exec (.skp 0) { State.reset with params := oobFaults, pc := 0xFFE#16 }) (fun t => t.pc == 0xFFE#16) = true := by
  decide

/-- Sixteen calls from an empty stack. -/
theorem witness_NestedCallsReturn : State.reset.sp.val + (List.replicate 16 ((0x202#16, 0x300#12) : Word × Addr12)).length ≤ 16 := by
  decide

/-- The clauses on VX itself need x other than F. -/
theorem witness_ImmediateLoadAndAdd : (0x1#4 : Reg) ≠ 0x0#4 := by decide

theorem witness_AssignAndLogic : (0x1#4 : Reg) ≠ 0xF#4 := by decide

theorem witness_AddSetsCarry : (0x0#4 : Reg) ≠ 0xF#4 ∧ (0xE#4 : Reg) ≠ 0x0#4 ∧ (0xE#4 : Reg) ≠ 0xF#4 := by decide

theorem witness_SubtractSetsNotBorrow : (0x0#4 : Reg) ≠ 0xF#4 ∧ (0xE#4 : Reg) ≠ 0x0#4 ∧ (0xE#4 : Reg) ≠ 0xF#4 := by decide

theorem witness_RandomIsMaskedFreeByte : (0x1#4 : Reg) ≠ 0x0#4 := by decide

theorem witness_ShiftsSetDroppedBit :
    (withRegs [(1, 0x04), (2, 0x05)]).params.shiftSource = .vx ∧ ((withRegs [(1, 0x04), (2, 0x05)]).reg 1).toNat = 4 ∧
    ({ defaultParams with shiftSource := .vy } : Params).shiftSource = .vy := by decide

theorem witness_IndexAdd :
    AddrOk { withRegs [(0, 0xFF)] with index := 0xF00#16, params := oobFaults } (0xF00 + 0xFF) ∧
    AddrOk { withRegs [(0, 1)] with index := 0xFFF#16 } (0xFFF + 1) := by decide

theorem witness_BcdStoresThreeDigits :
    (∀ k, k < 3 → AddrOk { State.reset with index := 0xFFD#16, params := oobFaults } (0xFFD + k)) ∧
    (∀ k, k < 3 → AddrOk { State.reset with index := 0xFFE#16 } (0xFFE + k)) := by decide

theorem witness_RegistersStored :
    (∀ k, k ≤ 15 → AddrOk { State.reset with index := 0xFF0#16, params := oobFaults } (0xFF0 + k)) ∧
    (∀ k, k ≤ 15 → AddrOk { State.reset with index := 0xFF1#16 } (0xFF1 + k)) := by decide

theorem witness_RegistersLoaded :
    (∀ k, k ≤ 15 → AddrOk { State.reset with index := 0xFF0#16, params := oobFaults } (0xFF0 + k)) ∧
    (∀ k, k ≤ 15 → AddrOk { State.reset with index := 0xFF1#16 } (0xFF1 + k)) := by decide

/-- V76; and the pair across the top of memory. -/
theorem witness_StoreIsSeenByNextFetch :
    (let s := { withRegs [(0, 0x12), (1, 0x08)] with pc := 0x202#16, index := 0x202#16 }
     1 ≤ (0x1#4 : Reg).toNat ∧ s.index = s.pc ∧ s.pc.toNat ≤ 0xFFF ∧
       answers (exec (.ldMemVx 1) s) (fun t => t.wordAtPc == 0x1208#16) = true) ∧
    (let s := { withRegs [(0, 0x12), (1, 0x08)] with pc := 0xFFF#16, index := 0xFFF#16 }
     answers (exec (.ldMemVx 1) s) (fun t => t.wordAtPc == 0x1208#16) = true) := by decide

theorem witness_DrawInvertsSpritePixels :
    (∀ k, k < 15 → AddrOk { State.reset with index := 0xFF1#16, params := oobFaults } (0xFF1 + k)) ∧
    (∀ k, k < 15 → AddrOk { State.reset with index := 0xFFE#16 } (0xFFE + k)) := by decide

/-- P3: glyph 7 drawn twice; the buffer is restored and VF = 1. With x = F and VF = 0 the first draw erases nothing, so VF and with it
the origin stay, and the second draw erases what the first lit. -/
theorem witness_DrawTwiceRestoresScreen :
    (0x0#4 : Reg) ≠ 0xF#4 ∧ (0x1#4 : Reg) ≠ 0xF#4 ∧
    (∀ k, k < 5 → AddrOk { State.reset with index := 0x073#16 } (0x073 + k)) ∧
    answers (exec (.drw 0 1 5) { State.reset with index := 0x073#16 }) (fun t =>
      answers (exec (.drw 0 1 5) t) (fun u => u.fb == Frame.clear && u.reg 0xF == 1#8)) = true ∧
    answers (exec (.drw 0xF 1 5) { State.reset with index := 0x073#16 }) (fun t =>
      t.originCol 0xF == State.reset.originCol 0xF && t.originRow 1 == State.reset.originRow 1 &&
        answers (exec (.drw 0xF 1 5) t) (fun u => u.fb == Frame.clear && u.reg 0xF == 1#8)) = true := by decide

/-- A buffer of ones: the sprite lights pixels of it, and the second draw erases none (log 24). -/
theorem witness_SecondDrawCollidesIffOnScreen :
    answers (exec (.drw 0 1 1) { State.reset with index := 0x050#16, fb := Vector.replicate 32 (BitVec.allOnes 64) }) (fun t =>
      answers (exec (.drw 0 1 1) t) (fun u => u.reg 0xF == 0#8)) = true ∧
    spriteBit { State.reset with index := 0x050#16 } 0 1 1 0 0 = true := by decide

/-- The lowest of two keys; the lowest key there is; no key. -/
theorem witness_KeyWaitStartsOrCompletes :
    (let s := { State.reset with key := keysDown [0xC, 0xF] }
     s.keyDown 0xC = true ∧ ∀ j, j < 0xC → s.keyDown j = false) ∧
    ({ State.reset with key := keysDown [0] } : State).keyDown 0 = true ∧ ∀ k, k < 16 → State.reset.keyDown k = false := by decide

theorem witness_no_key (k : Nat) : State.reset.keyDown k = false := by
  unfold State.keyDown
  split
  · simp [State.reset]
  · rfl

/-- Two keys down; no key; and the slot the script names after the poll that brings the key. -/
theorem witness_WaitSlotEndsOnKey :
    (let s := { State.reset with run := .waitKey 3, key := keysDown [7, 0xC] }
     s.atSlot ∧ s.run = .waitKey 3 ∧ s.keyDown 7 = true ∧ ∀ j, j < 7 → s.keyDown j = false) ∧
    answers (step { State.reset with run := .waitKey 3 }) (fun t => t.run == .waitKey 3 && t.reg 3 == 0#8) = true ∧
    answers (step { State.reset with run := .waitKey 3, script := [.poll (keysDown [7]) false 0, .slot, .frameTick] }) (fun s =>
      decide s.atSlot && answers (step s) (fun t => t.run == .running && t.reg 3 == 7#8 && t.script == [.frameTick])) = true := by
  decide

/-- The slot by default and the slot as the host's action. -/
theorem witness_StepRunsDecodedInstruction :
    (let s := State.reset.withFetchWord 16 0x6A9C
     s.stopped = false ∧ s.run = .running ∧ s.fetchOk ∧ (Instr.ldImm 0xA 0x9C).wf = true ∧
       decodeBytes [s.readByte s.pc.toNat, s.readByte ((s.pc.toNat + 1) % 0x1000)] = .op (.instr (.ldImm 0xA 0x9C)) [] ∧
       s.script = []) ∧
    (let s := { State.reset.withFetchWord 16 0x6A9C with script := [.slot, .frameTick] }
     s.script = .slot :: [.frameTick] ∧ answers (step s) (fun t => t.reg 0xA == 0x9C#8 && t.script == [.frameTick]) = true) := by
  decide

/-- Both forms of the slot, and PC at the top of memory. -/
theorem witness_UnknownOpcodeOnlyReports :
    State.reset.atSlot ∧ ({ State.reset with script := [.slot, .frameTick] } : State).atSlot ∧ State.reset.run = .running ∧
      State.reset.fetchOk ∧ unrecognized State.reset.wordAtPc = true ∧
      ({ State.reset with pc := 0xFFF#16 } : State).fetchOk := by decide

theorem witness_TopOfMemoryFaults :
    (let s := { State.reset with params := oobFaults, pc := 0xFFE#16 }
     s.atSlot ∧ s.run = .running ∧ s.params.oobPolicy = .fault ∧ 0xFFE ≤ s.pc.toNat ∧ s.pc.toNat ≤ 0xFFF) ∧
    (let s := { State.reset with params := oobFaults, pc := 0xFFF#16, script := [.slot, .frameTick] }
     s.atSlot ∧ 0xFFE ≤ s.pc.toNat ∧ s.pc.toNat ≤ 0xFFF ∧
       faults (step s) (.outOfBoundsAddress 0x1000 0xFFF { s with script := [.frameTick] }) = true) := by decide

/-- Each clause at the first address that is out of range. -/
theorem witness_OutOfBoundsFaults :
    (let s := { withRegs [(0, 1)] with params := oobFaults, index := 0xFFF#16, pc := 0xFFE#16 }
     s.params.oobPolicy = .fault ∧ 0xFFF < 0xFFF + (s.reg 0).toNat ∧ 0xFFF < s.index.toNat + (s.reg 0).toNat ∧
       0xFFF < s.pc.toNat + 2 ∧ s.index.toNat ≤ 0xFFF ∧ 0xFFF < s.index.toNat + (0x1#4 : Reg).toNat ∧
       0x1000 < s.index.toNat + (0x2#4 : Nibble).toNat) ∧
    (let s := { State.reset with params := oobFaults, index := 0xFFE#16 }
     0xFFF < s.index.toNat + 2 ∧ s.index.toNat ≤ 0xFFF ∧
       faults (exec (.ldB 0) s) (.outOfBoundsAddress 0x1000 s.instrAddr s) = true) := by decide

theorem witness_PollCopiesKeys :
    ({ State.reset with script := [.poll (keysDown [5]) true 11] } : State).stopped = false ∧
    answers (step { State.reset with script := [.poll (keysDown [5]) true 11] }) (fun t =>
      t.key == keysDown [5] && t.stopped && t.accI == 0) = true ∧
    answers (step { State.reset with script := [.poll (keysDown [5]) false 11] }) (fun t =>
      t.key == keysDown [5] && !t.stopped && t.accI == 11 && t.accF == 11) = true := by decide

theorem witness_StoppedStaysAsItIs : ({ State.reset with stopped := true } : State).stopped = true := by decide

theorem witness_FrameTickDecaysTimers :
    (let s := { State.reset with script := [.frameTick], dt := 1#8 }
     s.stopped = false ∧ s.script = .frameTick :: [] ∧ s.run = .running) ∧
    (let s := { State.reset with script := [.frameTick], run := .waitKey 3 }
     s.params.freezeFrameDuringWait = false ∧ s.run ≠ .running) ∧
    (let s := { State.reset with
      script := [.frameTick], run := .waitKey 3, params := { defaultParams with freezeFrameDuringWait := true } }
     s.run ≠ .running ∧ s.params.freezeFrameDuringWait = true) := by decide

/-- One byte, and the longest image. -/
theorem witness_LoadPlacesImage :
    State.reset.stopped = false ∧ State.reset.loadOpen = true ∧
      1 ≤ ([0#8] : List Byte).length ∧ (List.replicate 3584 0#8 : List Byte).length ≤ 3584 :=
  ⟨rfl, rfl, by decide, by rw [List.length_replicate]⟩

theorem witness_LoadRejectsBadImage :
    State.reset.stopped = false ∧ State.reset.loadOpen = true ∧ ([] : List Byte).length = 0 ∧
      3584 < (List.replicate 3585 0#8 : List Byte).length :=
  ⟨rfl, rfl, rfl, by rw [List.length_replicate]; decide⟩

/-- An accepted load, a slot of each form and a wait slot close the window; a load after that is refused. -/
theorem witness_LoadOnlyOnceBeforeFirstSlot :
    answers (step { State.reset with script := [.load [1#8]] }) (fun t => !t.loadOpen) = true ∧
    answers (step State.reset) (fun t => !t.loadOpen) = true ∧
    answers (step { State.reset with script := [.slot, .load [1#8]] }) (fun t =>
      !t.loadOpen && !answers (step t) (fun _ => true)) = true ∧
    answers (step { State.reset with script := [.slot, .load [1#8]], run := .waitKey 3 }) (fun t =>
      !t.loadOpen && !answers (step t) (fun _ => true)) = true ∧
    (let s := { State.reset with script := [.load [1#8]], loadOpen := false }
     s.stopped = false ∧ s.loadOpen = false ∧ answers (step s) (fun _ => true) = false) := by decide

theorem witness_ResetActionReinitializes :
    (let s := { withRegs [(3, 7)] with script := [.reset], dt := 9#8, pc := 0x300#16, loadOpen := false }
     s.stopped = false ∧ s.script = .reset :: [] ∧
       answers (step s) (fun t => t.pc == 0x200#16 && t.dt == 0#8 && t.reg 3 == 0#8 && t.loadOpen) = true) := by decide

/-- The last address clear of the top of memory. -/
theorem witness_ParkedSlotChangesNothing :
    (let s := { State.reset with pc := 0xFFD#16 }.withFetchWord 16 0x1FFD
     s.atSlot ∧ { s with script := [.slot] }.atSlot ∧ s.run = .running ∧ s.pc.toNat = (0xFFD#12 : Addr12).toNat ∧
       decode s.wordAtPc = .instr (.jp 0xFFD#12)) := by decide

/-- The parked state of the previous witness, as the obligation writes it. -/
theorem witness_parked : (State.withFetchWord { State.reset with pc := 0xFFD#16 } 16 0x1FFD).parked 0xFFD#12 :=
  ⟨by decide, by decide, by decide⟩

theorem witness_OnlyNamedRegistersChange :
    ∃ t, exec (.ldImm 0xA 0x9C) State.reset = .next t ∧ t.reg 0xA ≠ State.reset.reg 0xA := ⟨_, rfl, by decide⟩

theorem witness_OnlyStoredBytesChange :
    ∃ t, exec (.ldB 0) (withRegs [(0, 156)]) = .next t ∧ (t.readByte 0 != (withRegs [(0, 156)]).readByte 0) = true :=
  exists_next (by decide)

/-- Each part with one of its writers. -/
theorem witness_EachPartHasItsWriters :
    answers (exec (.call 0x300) State.reset) (fun t => t.sp != 0) = true ∧
    answers (exec (.drw 0 1 5) { State.reset with index := 0x050#16 }) (fun t => t.fb != State.reset.fb) = true ∧
    answers (exec (.ldDtVx 0) (withRegs [(0, 1)])) (fun t => t.dt != 0#8) = true ∧
    answers (exec (.ldStVx 0) (withRegs [(0, 1)])) (fun t => t.st != 0#8) = true ∧
    answers (exec (.ldVxK 0) State.reset) (fun t => t.run != .running) = true ∧
    answers (exec (.ldI 0x050) State.reset) (fun t => t.index != 0#16) = true := by decide

theorem witness_KeysChangeOnlyAtPoll :
    ∃ t, step { State.reset with script := [.poll (keysDown [5]) false 0] } = .next t ∧ (t.key != State.reset.key) = true :=
  exists_next (by decide)

/-- Every case: the reset, the tick, the instruction as either form of the slot; and FX15 at PC under a poll, which moves nothing. -/
theorem witness_TimersMoveOnlyByTickOrInstruction :
    answers (step { State.reset with script := [.reset], dt := 9#8, st := 9#8 }) (fun t => t.dt == 0#8 && t.st == 0#8) = true ∧
    answers (step { State.reset with script := [.frameTick], dt := 9#8 }) (fun t => t.dt == 8#8) = true ∧
    (let s := (withRegs [(0, 0x3C)]).withFetchWord 16 0xF015
     answers (step s) (fun t => t.dt == 0x3C#8) = true ∧
     answers (step { s with script := [.slot] }) (fun t => t.dt == 0x3C#8) = true ∧
     answers (step { s with script := [.poll (keysDown []) false 0] }) (fun t => t.dt == 0#8) = true) := by decide

/-- A step that answers a next state, and the one action that is refused. -/
theorem witness_DefaultPoliciesNeverStop :
    State.reset.params.oobPolicy = .wrap ∧ State.reset.params.stackPolicy = .clamp ∧
    answers (step State.reset) (fun t => t.params == State.reset.params) = true ∧
    answers (step { State.reset with script := [.load [1#8]], loadOpen := false }) (fun _ => true) = false := by decide

theorem witness_ReportsOnlyAppend : ∃ t, step State.reset = .next t ∧ (t.diag != []) = true := exists_next (by decide)

theorem witness_OutputsAreNeverRead :
    ({ State.reset with diag := [.programEmpty], redraws := 3 } : State).noOutputs = State.reset.noOutputs := by decide

/-- A state at the limits of the invariant, and a step from it. -/
theorem witness_StepKeepsInvariant : State.Inv { State.reset with pc := 0xFFF#16, index := 0xFFF#16 } := by
  refine ⟨Memory.reset_wf _, by decide, by decide, fun w hw => ?_⟩
  rw [List.eq_of_mem_replicate (show w ∈ List.replicate 16 0#16 from by simpa [State.reset] using hw)]
  decide

theorem witness_StepKeepsInvariant_steps :
    ∃ t, step { State.reset with pc := 0xFFF#16, index := 0xFFF#16 } = .next t ∧ (t.pc == 0x001#16) = true :=
  exists_next (by decide)

end Sys2Proof.Tests
end

section
/-! SUPPORT. What an instruction can do where it answers a next state, said once: `ExecEffect` has one case per kind of effect, and
`exec_effect` finds the case of each instruction. -/

namespace Sys2Proof.Machine

/-! ## Shared operations that answered a next state -/

theorem formAddr_next {start s t : State} {e : Nat} {k : Nat → State → Result} (h : formAddr start e s k = .next t) :
    k (e % 0x1000) (s.reports (oobReport start.instrAddr e)) = .next t := by
  rcases formAddr_cases start e s k with hk | hf
  · exact hk.symm.trans h
  · rw [hf] at h; cases h

theorem readBlock_next {start s t : State} {base : Nat} {ks : List Nat} {rest : List Byte → State → Result}
    (h : readBlock start base ks s rest = .next t) :
    rest (ks.map fun k => s.readByte ((base + k) % 0x1000)) (s.reports (oobReports start.instrAddr base ks)) = .next t := by
  rcases readBlock_cases start base ks s rest with hr | ⟨e, hf⟩
  · exact hr.symm.trans h
  · rw [hf] at h; cases h

theorem writeBlock_next {start s t : State} {base : Nat} {kbs : List (Nat × Byte)}
    (h : writeBlock start base kbs s = .next t) :
    t = { s.reports (oobReports start.instrAddr base (kbs.map Prod.fst)) with mem := blockMem s.params base kbs s.mem } := by
  rcases writeBlock_cases start base kbs s with hw | ⟨e, hf⟩
  · rw [hw] at h; cases h; rfl
  · rw [hf] at h; cases h

/-! ## Instructions -/

/-- The kinds of effect instruction `i` can have in state `s` (R97), each with the reports `es` it may come with. -/
inductive ExecEffect (i : Instr) (s : State) : State → Prop where
  /-- Registers that `i` names as written, and the draw of CXKK. -/
  | regs (v : Vector Byte 16) (draws : Nat) (es : List Event)
      (hv : ∀ z, writesReg z i = false → State.reg { s with v := v } z = s.reg z) :
      ExecEffect i s { s.reports es with v := v, draws := draws }
  /-- The stores of FX33 and FX55. -/
  | stores (kbs : List (Nat × Byte)) (es : List Event)
      (hk : ∀ kb ∈ kbs, storesTo s ((s.index.toNat + kb.1) % 0x1000) i) :
      ExecEffect i s { s.reports es with mem := blockMem s.params s.index.toNat kbs s.mem }
  /-- A jump or a skip that is taken. -/
  | jump (p : Nat) (es : List Event) (hp : p ≤ 0xFFF) : ExecEffect i s ((s.reports es).setPc p)
  /-- A skip that is not taken, a call on a full stack, a return on an empty one. -/
  | reportsOnly (es : List Event) : ExecEffect i s (s.reports es)
  | call (nnn : Addr12) (hi : i = .call nnn) (h : s.sp.val < 16) : ExecEffect i s ((s.pushEntry s.pc h).setPc nnn.toNat)
  | ret (hi : i = .ret) : ExecEffect i s (s.popEntry.setPc s.topEntry.toNat)
  | index (e : Nat) (es : List Event) (hi : (∃ nnn, i = .ldI nnn) ∨ (∃ x, i = .addI x) ∨ ∃ x, i = .ldF x)
      (he : e ≤ 0xFFF) : ExecEffect i s ((s.reports es).setIndex e)
  | delay (x : Reg) (hi : i = .ldDtVx x) : ExecEffect i s (s.setDt (s.reg x))
  | sound (x : Reg) (hi : i = .ldStVx x) : ExecEffect i s (s.setSt (s.reg x))
  | wait (x : Reg) (hi : i = .ldVxK x) : ExecEffect i s (s.setRun (.waitKey x))
  /-- 00E0, and DXYN with its collision flag. -/
  | screen (fb : Frame) (v : Vector Byte 16) (es : List Event) (hi : i = .cls ∨ ∃ x y n, i = .drw x y n)
      (hv : ∀ z, writesReg z i = false → State.reg { s with v := v } z = s.reg z) :
      ExecEffect i s { s.reports es with fb := fb, v := v }

variable {i : Instr} {s t : State} {x : Reg} {b : Byte} {f : Bool}

theorem execEffect_quietRegs {v : Vector Byte 16} {draws : Nat}
    (hv : ∀ z, writesReg z i = false → State.reg { s with v := v } z = s.reg z) :
    ExecEffect i s { s with v := v, draws := draws } := by
  simpa using ExecEffect.regs v draws [] hv

/-- A write to a register that `i` names leaves the registers it does not name. -/
theorem reg_setReg_of_writesReg (s : State) (b : Byte) (hx : writesReg x i = true) {z : Reg} (hz : writesReg z i = false) :
    (s.setReg x b).reg z = s.reg z :=
  State.reg_setReg_ne s b fun e => by simp [e, hx] at hz

theorem execEffect_setReg (hx : writesReg x i = true) : ExecEffect i s (s.setReg x b) :=
  execEffect_quietRegs fun _ hz => reg_setReg_of_writesReg s b hx hz

theorem execEffect_setResultAndFlag (hx : writesReg x i = true) (hf : writesReg vF i = true) :
    ExecEffect i s (s.setResultAndFlag x b f) :=
  execEffect_quietRegs fun _ hz =>
    (reg_setReg_of_writesReg (s.setReg x b) (flagByte f) hf hz).trans (reg_setReg_of_writesReg s b hx hz)

theorem execEffect_unchanged : ExecEffect i s s := by
  simpa using ExecEffect.reportsOnly (i := i) (s := s) []

theorem execEffect_setPc {p : Nat} (hp : p ≤ 0xFFF) : ExecEffect i s (s.setPc p) := by
  simpa using ExecEffect.jump (i := i) (s := s) p [] hp

theorem execEffect_setIndex {e : Nat} (hi : (∃ nnn, i = .ldI nnn) ∨ (∃ x, i = .addI x) ∨ ∃ x, i = .ldF x)
    (he : e ≤ 0xFFF) : ExecEffect i s (s.setIndex e) := by
  simpa using ExecEffect.index (i := i) (s := s) e [] hi he

theorem execEffect_skipIf {c : Bool} (h : skipIf c s = .next t) : ExecEffect i s t := by
  rcases skipIf_next h with rfl | rfl
  · exact execEffect_unchanged
  · exact .jump _ _ (by omega)

theorem execEffect_ret (h : exec .ret s = .next t) : ExecEffect .ret s t := by
  rw [exec_ret] at h
  by_cases hsp : s.sp.val = 0
  · cases hp : s.params.stackPolicy with
    | clamp => rw [pop_underflow hsp hp] at h; cases h; exact .reportsOnly [_]
    | fault => rw [pop_fault hsp hp] at h; cases h
  · rw [pop_ok hsp] at h; cases h; exact .ret rfl

theorem execEffect_call {nnn : Addr12} (h : exec (.call nnn) s = .next t) : ExecEffect (.call nnn) s t := by
  rw [exec_call] at h
  by_cases hsp : s.sp.val < 16
  · rw [push_ok hsp] at h; cases h; exact .call nnn rfl hsp
  · have hfull : s.sp.val = 16 := by omega
    cases hp : s.params.stackPolicy with
    | clamp => rw [push_overflow hfull hp] at h; cases h; exact .reportsOnly [_]
    | fault => rw [push_fault hfull hp] at h; cases h

theorem execEffect_ldVxK (h : exec (.ldVxK x) s = .next t) : ExecEffect (.ldVxK x) s t := by
  rw [exec_ldVxK] at h
  cases hk : s.lowestKey with
  | none => rw [hk] at h; cases h; exact .wait x rfl
  | some k => rw [hk] at h; cases h; exact execEffect_setReg (by simp [writesReg])

theorem execEffect_cls (h : exec .cls s = .next t) : ExecEffect .cls s t := by
  have he := ExecEffect.screen (i := .cls) (s := s) Frame.clear s.v [] (.inl rfl) fun _ _ => rfl
  rw [State.reports_nil] at he
  cases h
  exact he

theorem execEffect_drw {y : Reg} {n : Nibble} (h : exec (.drw x y n) s = .next t) : ExecEffect (.drw x y n) s t := by
  have ht := readBlock_next h
  cases ht
  exact .screen _ _ _ (.inr ⟨x, y, n, rfl⟩) fun z hz => reg_setReg_of_writesReg s _ (x := vF) rfl hz

/-- FX33: the three digits go to I, I + 1 and I + 2. -/
theorem execEffect_ldB (h : exec (.ldB x) s = .next t) : ExecEffect (.ldB x) s t := by
  rw [writeBlock_next h]
  refine .stores _ _ fun kb hkb => ⟨kb.1, ?_, rfl⟩
  simp only [bcdDigits, List.mem_cons, List.not_mem_nil, or_false] at hkb
  rcases hkb with rfl | rfl | rfl <;> simp

/-- FX55: V0 to VX go to I to I + X. -/
theorem execEffect_ldMemVx (h : exec (.ldMemVx x) s = .next t) : ExecEffect (.ldMemVx x) s t := by
  rw [writeBlock_next h]
  refine .stores _ _ fun kb hkb => ⟨kb.1, ?_, rfl⟩
  obtain ⟨k, hk, rfl⟩ := List.mem_map.1 hkb
  exact List.mem_range.1 hk

/-- FX65: V0 to VX are loaded, the registers above X are kept. -/
theorem execEffect_ldVxMem (h : exec (.ldVxMem x) s = .next t) : ExecEffect (.ldVxMem x) s t := by
  have ht := readBlock_next h
  cases ht
  rw [State.setRegsFrom_eq]
  refine .regs _ _ _ fun z hz => ?_
  have hzx : ¬ z.toNat ≤ x.toNat := by simpa [writesReg] using hz
  refine (State.reg_setRegsFrom _ _ 0 (by simp; omega) z).trans (if_neg ?_)
  simp only [List.length_map, List.length_range]
  omega

/-- All that an instruction can do where it answers a next state. -/
theorem exec_effect (h : exec i s = .next t) : ExecEffect i s t := by
  cases i with
  | cls => exact execEffect_cls h
  | ret => exact execEffect_ret h
  | call => exact execEffect_call h
  | jp nnn => cases h; exact execEffect_setPc (by omega)
  | jpV0 nnn => rw [exec_jpV0] at h; cases formAddr_next h; exact .jump _ _ (by omega)
  | seImm | sneImm | seReg | sneReg | skp | sknp => exact execEffect_skipIf h
  | ldImm | addImm | ldReg | orReg | andReg | xorReg | ldVxDt => cases h; exact execEffect_setReg (by simp [writesReg])
  | addReg | subReg | shr | subn | shl =>
    cases h
    exact execEffect_setResultAndFlag (by simp [writesReg]) (by simp [writesReg, vF])
  | rnd x kk => cases h; exact execEffect_quietRegs fun z hz => reg_setReg_of_writesReg s _ (by simp [writesReg]) hz
  | ldI nnn => cases h; exact execEffect_setIndex (.inl ⟨nnn, rfl⟩) (by omega)
  | addI x => rw [exec_addI] at h; cases formAddr_next h; exact .index _ _ (.inr (.inl ⟨x, rfl⟩)) (by omega)
  | ldF x => cases h; exact execEffect_setIndex (.inr (.inr ⟨x, rfl⟩)) (by unfold fontBase; omega)
  | ldDtVx x => cases h; exact .delay x rfl
  | ldStVx x => cases h; exact .sound x rfl
  | ldVxK => exact execEffect_ldVxK h
  | drw => exact execEffect_drw h
  | ldB => exact execEffect_ldB h
  | ldMemVx => exact execEffect_ldMemVx h
  | ldVxMem => exact execEffect_ldVxMem h

theorem exec_frame (h : exec i s = .next t) : ExecFrame s t := by
  rcases exec_cases s i with ⟨u, hu, hf⟩ | ⟨f, hf⟩
  · rw [hu] at h; cases h; exact hf
  · rw [hf] at h; cases h

end Sys2Proof.Machine
end

section
/-! SUPPORT. What a slot and a step can do where they answer a next state (`SlotEffect`, `StepEffect`). -/

namespace Sys2Proof.Machine

/-! ## Slots -/

/-- The three kinds of slot taken in `s` (R93, R97, R98, R140): an instruction, an unrecognized word, a wait slot; the last goes on
waiting, or ends with the lowest pressed key. -/
inductive SlotEffect (s : State) : State → Prop where
  | instr (i : Instr) (t : State) (hr : s.run = .running) (hd : decode s.wordAtPc = .instr i)
      (ht : exec i s.executing = .next t) : SlotEffect s t
  | unknown (w : Word) (hr : s.run = .running) (hd : decode s.wordAtPc = .unknown w) :
      SlotEffect s (s.executing.report (.unknownOpcode s.pc.toNat w))
  | waits (x : Reg) (hr : s.run = .waitKey x) (hk : s.lowestKey = none) : SlotEffect s s.openSlot
  | waitEnds (x : Reg) (k : Nat) (hr : s.run = .waitKey x) (hk : s.lowestKey = some k) :
      SlotEffect s ((s.openSlot.setReg x (trunc8 k)).setRun .running)

theorem waitSlot_none {x : Reg} {s : State} (h : s.lowestKey = none) : waitSlot x s = s := by simp [waitSlot, h]

theorem waitSlot_some {x : Reg} {s : State} {k : Nat} (h : s.lowestKey = some k) :
    waitSlot x s = (s.setReg x (trunc8 k)).setRun .running := by simp [waitSlot, h]

theorem stepInstr_next {s t : State} (h : stepInstr s s.openSlot = .next t) :
    execute (decode s.wordAtPc) s.pc.toNat s.executing = .next t := by
  rcases stepInstr_cases s with he | ⟨e, hf⟩
  · exact recordStart_next.1 (he.symm.trans h)
  · rw [hf] at h; cases h

/-- All that a slot can do where it answers a next state. -/
theorem slot_effect {s t : State} (h : slot s = .next t) : SlotEffect s t := by
  cases hr : s.run with
  | running =>
    rw [slot_running hr] at h
    have hx := stepInstr_next h
    cases hd : decode s.wordAtPc with
    | instr i => rw [hd] at hx; exact .instr i t hr hd hx
    | unknown w => rw [hd] at hx; cases hx; exact .unknown w hr hd
  | waitKey x =>
    rw [slot_waiting hr] at h
    cases h
    cases hk : s.lowestKey with
    | none => rw [waitSlot_none (s := s.openSlot) hk]; exact .waits x hr hk
    | some k => rw [waitSlot_some (s := s.openSlot) hk]; exact .waitEnds x k hr hk

/-! ## Host actions -/

/-- A poll writes KEY and the Scheduler's own state, and nothing else (R159, R165). -/
theorem poll_eq (keys : Keys) (quit : Bool) (d : Nat) (s : State) :
    poll keys quit d s =
      { s with
        key := keys, stopped := (poll keys quit d s).stopped
        accI := (poll keys quit d s).accI, accF := (poll keys quit d s).accF } := by
  cases quit <;> rfl

theorem frozen_eq_false {s : State} :
    s.frozen = false ↔ s.run = .running ∨ s.params.freezeFrameDuringWait = false := by
  cases hr : s.run <;> simp [State.frozen, hr]

/-- R35: a timer is lowered by 1, floored at 0. -/
theorem decay_toNat (b : Byte) : (decay b).toNat = b.toNat - 1 := by
  simp only [decay, trunc8, BitVec.toNat_ofNat]
  omega

/-- The kinds of step from `s` (R158): a stopped Scheduler's, a slot, and the script's next action, performed in `s.slotStart`,
the state with that action taken off. -/
inductive StepEffect (s : State) : State → Prop where
  | stopped (hst : s.stopped = true) : StepEffect s s
  | slot (t : State) (hat : s.atSlot) (ht : SlotEffect s.slotStart t) : StepEffect s t
  | reset (rest : List HostAct) (hst : s.stopped = false) (hs : s.script = .reset :: rest) :
      StepEffect s (resetAct s.slotStart)
  | loadRejected (image : List Byte) (rest : List HostAct) (e : Event) (hst : s.stopped = false)
      (hs : s.script = .load image :: rest) : StepEffect s (s.slotStart.report e)
  | load (image : List Byte) (rest : List HostAct) (hst : s.stopped = false) (hs : s.script = .load image :: rest)
      (hlen : image.length ≤ programMax) :
      StepEffect s { s.slotStart with mem := Memory.writeBytes s.params programBase image s.mem, loadOpen := false }
  | poll (keys : Keys) (quit : Bool) (d : Nat) (rest : List HostAct) (hst : s.stopped = false)
      (hs : s.script = .poll keys quit d :: rest) : StepEffect s (poll keys quit d s.slotStart)
  | tick (rest : List HostAct) (hst : s.stopped = false) (hs : s.script = .frameTick :: rest) (hf : s.frozen = false) :
      StepEffect s s.slotStart.frameTick
  /-- No frame tick occurs during a key wait that freezes it (R163). -/
  | tickHeldBack (rest : List HostAct) (hst : s.stopped = false) (hs : s.script = .frameTick :: rest)
      (hf : s.frozen = true) : StepEffect s s.slotStart

theorem slotStart_eq {s : State} {act : HostAct} {rest : List HostAct} (h : s.script = act :: rest) :
    { s with script := rest } = s.slotStart := by
  simp [State.slotStart, h]

theorem stepEffect_load {s t : State} {image : List Byte} {rest : List HostAct} (hst : s.stopped = false)
    (hs : s.script = .load image :: rest) (h : load image s.slotStart = .next t) : StepEffect s t := by
  unfold load at h
  split at h
  · split at h
    · cases h; exact .loadRejected image rest _ hst hs
    · split at h
      · cases h; exact .loadRejected image rest _ hst hs
      · cases h; exact .load image rest hst hs (by omega)
  · cases h

theorem stepEffect_frameTick {s : State} {rest : List HostAct} (hst : s.stopped = false)
    (hs : s.script = .frameTick :: rest) : StepEffect s (frameTickAct s.slotStart) := by
  unfold frameTickAct
  split
  · next hf => exact .tickHeldBack rest hst hs hf
  · next hf => exact .tick rest hst hs (by simpa using hf)

/-- All that a step can do where it answers a next state. -/
theorem step_effect {s t : State} (h : step s = .next t) : StepEffect s t := by
  rcases step_cases s with ⟨hst, he⟩ | ⟨hst, hs, -⟩ | ⟨act, rest, hst, hs, he⟩
  · rw [he] at h; cases h; exact .stopped hst
  · have hat : s.atSlot := ⟨hst, .inl hs⟩
    exact .slot t hat (slot_effect ((step_atSlot hat).symm.trans h))
  · rw [he, slotStart_eq hs] at h
    cases act with
    | reset => cases h; exact .reset rest hst hs
    | load image => exact stepEffect_load hst hs h
    | poll keys quit d => cases h; exact .poll keys quit d rest hst hs
    | slot => exact .slot t ⟨hst, .inr (by simp [hs])⟩ (slot_effect h)
    | frameTick => cases h; exact stepEffect_frameTick hst hs

end Sys2Proof.Machine
end

section
/-! PROOFS. The invariant (R24, R26, R50): reset meets it, and every instruction, slot and step keeps it. -/

namespace Sys2Proof.Machine

theorem toNat_ofNat_le {n : Nat} (h : n ≤ 0xFFF) : (BitVec.ofNat 16 n).toNat ≤ 0xFFF :=
  Nat.le_trans (BitVec.toNat_ofNat n 16 ▸ Nat.mod_le ..) h

/-- A stack entry after a push is the one pushed or an earlier one. -/
theorem mem_set_toList {stack : Vector Word 16} {k : Nat} {v w : Word} (hk : k < 16) (h : w ∈ (stack.set k v hk).toList) :
    w = v ∨ w ∈ stack.toList := by
  rw [Vector.toList_set] at h
  exact (List.mem_or_eq_of_mem_set h).symm

theorem topEntry_le {s : State} (h : ∀ w ∈ s.stack.toList, w.toNat ≤ 0xFFF) : s.topEntry.toNat ≤ 0xFFF := by
  unfold State.topEntry
  cases he : s.stack[s.sp.val - 1]? with
  | none => decide
  | some w => exact h w (Vector.mem_toList_iff.2 (Vector.mem_of_getElem? he))

theorem reset_inv (p : Params) : State.Inv { State.reset with params := p } := by
  refine ⟨Memory.reset_wf p, (by decide : resetPc.toNat ≤ 0xFFF), (by decide : (0#16).toNat ≤ 0xFFF), fun w hw => ?_⟩
  have hw0 : w = 0#16 := by simpa [State.reset] using hw
  simp [hw0]

/-- Every instruction keeps the invariant: the addresses it forms are below 0x1000, and a call pushes an address PC held. -/
theorem execEffect_inv {i : Instr} {s t : State} (h : ExecEffect i s t) (hs : s.Inv) : t.Inv := by
  obtain ⟨hmem, hpc, hindex, hstack⟩ := hs
  cases h with
  | regs | reportsOnly | delay | sound | wait | screen => exact ⟨hmem, hpc, hindex, hstack⟩
  | stores => exact ⟨blockMem_wf hmem, hpc, hindex, hstack⟩
  | jump p _ hp => exact ⟨hmem, toNat_ofNat_le hp, hindex, hstack⟩
  | index e _ _ he => exact ⟨hmem, hpc, toNat_ofNat_le he, hstack⟩
  | ret => exact ⟨hmem, toNat_ofNat_le (topEntry_le hstack), hindex, hstack⟩
  | call nnn _ hsp =>
    refine ⟨hmem, toNat_ofNat_le (by omega), hindex, fun w hw => ?_⟩
    rcases mem_set_toList hsp hw with rfl | hw
    · exact hpc
    · exact hstack w hw

theorem executing_inv {s : State} (hs : s.Inv) : s.executing.Inv := by
  obtain ⟨hmem, -, hindex, hstack⟩ := hs
  exact ⟨hmem, toNat_ofNat_le (by omega), hindex, hstack⟩

theorem slotEffect_inv {s t : State} (h : SlotEffect s t) (hs : s.Inv) : t.Inv := by
  cases h with
  | instr i t _ _ ht => exact execEffect_inv (exec_effect ht) (executing_inv hs)
  | unknown => exact executing_inv hs
  | waits | waitEnds => exact hs

theorem stepEffect_inv {s t : State} (h : StepEffect s t) (hs : s.Inv) : t.Inv := by
  cases h with
  | stopped | loadRejected | tick | tickHeldBack => exact hs
  | slot t _ ht => exact slotEffect_inv ht hs
  | reset => exact reset_inv s.params
  | load image _ _ _ hlen =>
    obtain ⟨hmem, hrest⟩ := hs
    refine ⟨Memory.writeBytes_wf image ?_ hmem, hrest⟩
    unfold programMax at hlen
    unfold programBase
    omega
  | poll => rw [poll_eq]; exact hs

/-- Settles O59: every kind of step keeps the invariant. -/
theorem stepKeepsInvariant : Obligations.StepKeepsInvariant :=
  fun _ _ hs h => stepEffect_inv (step_effect h) hs

/-- Settles O60. -/
theorem resetMeetsInvariant : Obligations.ResetMeetsInvariant := reset_inv defaultParams

end Sys2Proof.Machine
end

section
/-! PROOFS. No step reads what the outputs have shown (R47, R48): each operation of the model answers alike in two states that
differ in the outputs only. -/

namespace Sys2Proof.Machine

theorem noOutputs_idem (s : State) : s.noOutputs.noOutputs = s.noOutputs := rfl

/-- Two rests of a rule answer alike but for the outputs, in every two states that differ in the outputs only. -/
def AnswerAlike (k k' : State → Result) : Prop :=
  ∀ s s' : State, s.noOutputs = s'.noOutputs → noOutputs (k s) = noOutputs (k' s')

/-- For a rule that answers, up to the outputs, as it does in the state without them. -/
theorem answerAlike_of_noOutputs {k : State → Result} (h : ∀ s : State, noOutputs (k s.noOutputs) = noOutputs (k s)) :
    AnswerAlike k k := fun s s' hs => by rw [← h s, hs, h s']

/-- A view of the state that does not look at the outputs is the same in states that differ in them only. -/
theorem view_eq {α : Type} {view : State → α} {s s' : State} (h : s.noOutputs = s'.noOutputs)
    (hv : ∀ u : State, view u.noOutputs = view u := by exact fun _ => rfl) : view s = view s' := by
  rw [← hv s, h, hv s']

variable {start start' s s' : State}

theorem report_alike (h : s.noOutputs = s'.noOutputs) (e e' : Event) : (s.report e).noOutputs = (s'.report e').noOutputs := h

/-! ## Shared operations -/

theorem formAddrAt_alike {a e : Nat} {k k' : Nat → State → Result} (hst : start.noOutputs = start'.noOutputs)
    (hs : s.noOutputs = s'.noOutputs) (hk : ∀ p, AnswerAlike (k p) (k' p)) :
    noOutputs (formAddrAt a start e s k) = noOutputs (formAddrAt a start' e s' k') := by
  have hp : s.params.oobPolicy = s'.params.oobPolicy := view_eq (view := fun u => u.params.oobPolicy) hs
  unfold formAddrAt
  rw [hp]
  split
  · exact hk e s s' hs
  · cases s'.params.oobPolicy with
    | wrap => exact hk _ _ _ (report_alike hs _ _)
    | fault => simp [noOutputs, hst]

theorem formAddr_alike {e : Nat} {k k' : Nat → State → Result} (hst : start.noOutputs = start'.noOutputs)
    (hs : s.noOutputs = s'.noOutputs) (hk : ∀ p, AnswerAlike (k p) (k' p)) :
    noOutputs (formAddr start e s k) = noOutputs (formAddr start' e s' k') := by
  have ha : start.instrAddr = start'.instrAddr := view_eq hst
  unfold formAddr
  rw [ha]
  exact formAddrAt_alike hst hs hk

theorem skip_alike (hs : s.noOutputs = s'.noOutputs) : noOutputs (skip s s) = noOutputs (skip s' s') := by
  have hpc : s.pc = s'.pc := view_eq hs
  unfold skip
  rw [hpc]
  exact formAddr_alike hs hs fun _ => answerAlike_of_noOutputs fun _ => rfl

theorem skipIf_alike (c : Bool) : AnswerAlike (skipIf c) (skipIf c) := fun s s' hs => by
  cases c with
  | false => exact congrArg Host.Outcome.next hs
  | true => exact skip_alike hs

theorem readBlock_alike {base : Nat} (hst : start.noOutputs = start'.noOutputs) (ks : List Nat)
    {rest rest' : List Byte → State → Result} (hr : ∀ bs, AnswerAlike (rest bs) (rest' bs)) :
    AnswerAlike (fun s => readBlock start base ks s rest) (fun s => readBlock start' base ks s rest') := by
  induction ks generalizing rest rest' with
  | nil => exact hr []
  | cons k ks ih =>
    refine fun s s' hs => formAddr_alike hst hs fun a u u' hu => ?_
    have hb : u.readByte a = u'.readByte a := view_eq (view := fun v => v.readByte a) hu
    simp only [hb]
    exact ih (fun bs => hr (u'.readByte a :: bs)) u u' hu

theorem writeByte_alike (a : Nat) (b : Byte) (hs : s.noOutputs = s'.noOutputs) :
    (s.writeByte a b).noOutputs = (s'.writeByte a b).noOutputs :=
  view_eq (view := fun u => (u.writeByte a b).noOutputs) hs

theorem writeBlock_alike {base : Nat} (hst : start.noOutputs = start'.noOutputs) (kbs : List (Nat × Byte)) :
    AnswerAlike (writeBlock start base kbs) (writeBlock start' base kbs) := by
  induction kbs with
  | nil => exact fun s s' hs => congrArg Host.Outcome.next hs
  | cons kb kbs ih => exact fun s s' hs => formAddr_alike hst hs fun a u u' hu => ih _ _ (writeByte_alike a kb.2 hu)

/-! ## Instructions -/

theorem exec_ret_alike : AnswerAlike (exec .ret) (exec .ret) := by
  refine answerAlike_of_noOutputs fun s => ?_
  rw [exec_ret, exec_ret]
  by_cases hsp : s.sp.val = 0
  · cases hp : s.params.stackPolicy with
    | clamp => rw [pop_underflow hsp hp, pop_underflow (s := s.noOutputs) hsp hp]; rfl
    | fault => rw [pop_fault hsp hp, pop_fault (s := s.noOutputs) hsp hp]; rfl
  · rw [pop_ok hsp, pop_ok (s := s.noOutputs) hsp]
    rfl

theorem exec_call_alike (nnn : Addr12) : AnswerAlike (exec (.call nnn)) (exec (.call nnn)) := by
  refine answerAlike_of_noOutputs fun s => ?_
  rw [exec_call, exec_call]
  by_cases hsp : s.sp.val < 16
  · rw [push_ok hsp, push_ok (s := s.noOutputs) hsp]
    rfl
  · have hfull : s.sp.val = 16 := by omega
    cases hp : s.params.stackPolicy with
    | clamp => rw [push_overflow hfull hp, push_overflow (s := s.noOutputs) hfull hp]; rfl
    | fault => rw [push_fault hfull hp, push_fault (s := s.noOutputs) hfull hp]; rfl

theorem exec_ldVxK_alike (x : Reg) : AnswerAlike (exec (.ldVxK x)) (exec (.ldVxK x)) := by
  refine answerAlike_of_noOutputs fun s => ?_
  have hk : s.noOutputs.lowestKey = s.lowestKey := rfl
  rw [exec_ldVxK, exec_ldVxK, hk]
  cases s.lowestKey <;> rfl

theorem noOutputs_setRegsFrom (bs : List Byte) (s : State) (k : Nat) :
    (s.setRegsFrom k bs).noOutputs = s.noOutputs.setRegsFrom k bs := by
  induction bs generalizing s k with
  | nil => rfl
  | cons b bs ih => exact ih (s.setReg (BitVec.ofNat 4 k) b) (k + 1)

theorem setRegsFrom_alike (k : Nat) (bs : List Byte) :
    AnswerAlike (fun s => .next (s.setRegsFrom k bs)) (fun s => .next (s.setRegsFrom k bs)) :=
  fun s s' hs => congrArg Host.Outcome.next (by rw [noOutputs_setRegsFrom, hs, noOutputs_setRegsFrom])

/-- No instruction reads the outputs. -/
theorem exec_alike (i : Instr) : AnswerAlike (exec i) (exec i) := by
  cases i with
  | cls | jp | ldImm | addImm | ldReg | orReg | andReg | xorReg | addReg | subReg | shr | subn | shl | ldI | rnd | ldVxDt
  | ldDtVx | ldStVx | ldF => exact answerAlike_of_noOutputs fun _ => rfl
  | seImm | sneImm | seReg | sneReg | skp | sknp =>
    exact answerAlike_of_noOutputs fun s => skipIf_alike _ _ _ (noOutputs_idem s)
  | ret => exact exec_ret_alike
  | call nnn => exact exec_call_alike nnn
  | ldVxK x => exact exec_ldVxK_alike x
  | jpV0 nnn =>
    refine answerAlike_of_noOutputs fun s => ?_
    rw [exec_jpV0, exec_jpV0]
    exact formAddr_alike (noOutputs_idem s) (noOutputs_idem s) fun _ => answerAlike_of_noOutputs fun _ => rfl
  | addI x =>
    refine answerAlike_of_noOutputs fun s => ?_
    rw [exec_addI, exec_addI]
    exact formAddr_alike (noOutputs_idem s) (noOutputs_idem s) fun _ => answerAlike_of_noOutputs fun _ => rfl
  | ldB | ldMemVx => exact answerAlike_of_noOutputs fun s => writeBlock_alike (noOutputs_idem s) _ _ _ (noOutputs_idem s)
  | drw => exact answerAlike_of_noOutputs fun s =>
      readBlock_alike (noOutputs_idem s) _ (fun _ => answerAlike_of_noOutputs fun _ => rfl) _ _ (noOutputs_idem s)
  | ldVxMem => exact answerAlike_of_noOutputs fun s =>
      readBlock_alike (noOutputs_idem s) _ (fun bs => setRegsFrom_alike 0 bs) _ _ (noOutputs_idem s)

/-! ## Slots, host actions and steps -/

theorem noOutputs_recordStart (start : State) (r : Result) :
    noOutputs (recordStart start r) = recordStart start.noOutputs (noOutputs r) := by
  cases r with
  | next | refused => rfl
  | fault f => cases f <;> rfl

theorem execute_alike (op : Op) (a : Nat) : AnswerAlike (execute op a) (execute op a) := by
  cases op with
  | instr i => exact exec_alike i
  | unknown w => exact answerAlike_of_noOutputs fun _ => rfl

theorem fetch16_alike {a : Nat} {rest rest' : Word → State → Result} (hst : start.noOutputs = start'.noOutputs)
    (hs : s.noOutputs = s'.noOutputs) (hr : ∀ w, AnswerAlike (rest w) (rest' w)) :
    noOutputs (fetch16 a start s rest) = noOutputs (fetch16 a start' s' rest') :=
  formAddrAt_alike hst hs fun a1 u u' hu => by
    have hw : wordOfBytes (u.readByte a) (u.readByte a1) = wordOfBytes (u'.readByte a) (u'.readByte a1) :=
      view_eq (view := fun v => wordOfBytes (v.readByte a) (v.readByte a1)) hu
    simpa only [hw] using hr _ u u' hu

theorem advance_alike {a : Nat} {rest rest' : State → Result} (hst : start.noOutputs = start'.noOutputs)
    (hs : s.noOutputs = s'.noOutputs) (hr : AnswerAlike rest rest') :
    noOutputs (advance a start s rest) = noOutputs (advance a start' s' rest') :=
  formAddrAt_alike hst hs fun p _ _ hu => hr _ _ (view_eq (view := fun v => (v.setPc p).noOutputs) hu)

theorem stepInstr_alike (hst : start.noOutputs = start'.noOutputs) : AnswerAlike (stepInstr start) (stepInstr start') := by
  refine fun s s' hs => ?_
  have hpc : s.pc = s'.pc := view_eq hs
  unfold stepInstr
  rw [hpc]
  refine fetch16_alike hst hs fun w t t' ht => advance_alike hst ht fun u u' hu => ?_
  rw [noOutputs_recordStart, noOutputs_recordStart, hst, execute_alike _ _ u u' hu]

theorem waitSlot_alike (x : Reg) : AnswerAlike (fun s => .next (waitSlot x s)) (fun s => .next (waitSlot x s)) := by
  refine answerAlike_of_noOutputs fun s => ?_
  cases hk : s.lowestKey with
  | none => rw [waitSlot_none hk, waitSlot_none (s := s.noOutputs) hk]; rfl
  | some k => rw [waitSlot_some hk, waitSlot_some (s := s.noOutputs) hk]; rfl

theorem slot_alike : AnswerAlike slot slot := by
  refine answerAlike_of_noOutputs fun s => ?_
  cases hr : s.run with
  | running =>
    rw [slot_running hr, slot_running (s := s.noOutputs) hr]
    exact stepInstr_alike (noOutputs_idem s) _ _ rfl
  | waitKey x =>
    rw [slot_waiting hr, slot_waiting (s := s.noOutputs) hr]
    exact waitSlot_alike x _ _ rfl

theorem load_alike (image : List Byte) : AnswerAlike (load image) (load image) := by
  refine answerAlike_of_noOutputs fun s => ?_
  have hopen : s.noOutputs.loadOpen = s.loadOpen := rfl
  unfold load
  rw [hopen]
  split
  · split
    · rfl
    · split <;> rfl
  · rfl

theorem poll_alike (keys : Keys) (quit : Bool) (d : Nat) :
    AnswerAlike (fun s => .next (poll keys quit d s)) (fun s => .next (poll keys quit d s)) := by
  refine answerAlike_of_noOutputs fun s => ?_
  cases quit <;> rfl

theorem frameTickAct_alike : AnswerAlike (fun s => .next (frameTickAct s)) (fun s => .next (frameTickAct s)) := by
  refine answerAlike_of_noOutputs fun s => ?_
  have hf : s.noOutputs.frozen = s.frozen := rfl
  unfold frameTickAct
  rw [hf]
  cases s.frozen <;> rfl

theorem perform_alike (act : HostAct) : AnswerAlike (perform act) (perform act) := by
  cases act with
  | reset => exact answerAlike_of_noOutputs fun _ => rfl
  | load image => exact load_alike image
  | poll keys quit d => exact poll_alike keys quit d
  | slot => exact slot_alike
  | frameTick => exact frameTickAct_alike

/-- No step reads the outputs. -/
theorem step_alike : AnswerAlike step step := by
  refine answerAlike_of_noOutputs fun s => ?_
  rcases step_cases s with ⟨hst, he⟩ | ⟨hst, hs, he⟩ | ⟨act, rest, hst, hs, he⟩
  · rw [he, step_stopped (s := s.noOutputs) hst]
    rfl
  · rw [he, step_slot (s := s.noOutputs) hst hs]
    exact slot_alike _ _ rfl
  · rw [he, step_act (s := s.noOutputs) hst hs]
    exact perform_alike act _ _ rfl

/-- Settles O58: the step's every operation answers alike in two states that differ in the outputs only. -/
theorem outputsAreNeverRead : Obligations.OutputsAreNeverRead := step_alike

end Sys2Proof.Machine
end

section
/-! PROOFS. Which action or instruction changes which part (R21 to R24, R29 to R38, R47), the stack faults of a slot (R152) and the
values at reset (R43). -/

namespace Sys2Proof.Machine

/-! ## Instructions and the parts they write -/

/-- Settles O51: the only effects on registers are those of `regs` and `screen`, on registers the instruction names. -/
theorem onlyNamedRegistersChange : Obligations.OnlyNamedRegistersChange := by
  intro i s t z h hne
  by_contra hz
  have hz : writesReg z i = false := by simpa using hz
  cases exec_effect h with
  | regs _ _ _ hv | screen _ _ _ _ hv => exact hne (hv z hz)
  | _ => exact hne rfl

/-- Settles O53: each part is written by the effect of its own instructions only. -/
theorem eachPartHasItsWriters : Obligations.EachPartHasItsWriters := by
  intro i s t h
  cases exec_effect h with
  | regs | stores | jump | reportsOnly => simp
  | call nnn hi => simp [hi]
  | ret hi => simp [hi]
  | index _ _ hi => simpa using fun _ => hi
  | delay x hi => simp [hi]
  | sound x hi => simp [hi]
  | wait x hi => simp [hi]
  | screen _ _ _ hi => simpa using fun _ => hi

/-- Only FX15 moves DT, to VX (R142). -/
theorem exec_dt {i : Instr} {s t : State} (h : exec i s = .next t) : t.dt = s.dt ∨ ∃ x, i = .ldDtVx x ∧ t.dt = s.reg x := by
  cases exec_effect h with
  | delay x hi => exact .inr ⟨x, hi, rfl⟩
  | _ => exact .inl rfl

/-- Only FX18 moves ST, to VX (R143). -/
theorem exec_st {i : Instr} {s t : State} (h : exec i s = .next t) : t.st = s.st ∨ ∃ x, i = .ldStVx x ∧ t.st = s.reg x := by
  cases exec_effect h with
  | sound x hi => exact .inr ⟨x, hi, rfl⟩
  | _ => exact .inl rfl

/-! ## Slots and the parts they write -/

theorem slotEffect_key {s t : State} (h : SlotEffect s t) : t.key = s.key := by
  cases h with
  | instr i t _ _ ht => exact (exec_frame ht).key
  | unknown | waits | waitEnds => rfl

theorem slotEffect_dt {s t : State} (h : SlotEffect s t) :
    t.dt = s.dt ∨ s.run = .running ∧ ∃ x, decode s.wordAtPc = .instr (.ldDtVx x) ∧ t.dt = s.reg x := by
  cases h with
  | instr i t hr hd ht => exact (exec_dt ht).imp_right fun ⟨x, hi, hx⟩ => ⟨hr, x, hi ▸ hd, hx⟩
  | unknown | waits | waitEnds => exact .inl rfl

theorem slotEffect_st {s t : State} (h : SlotEffect s t) :
    t.st = s.st ∨ s.run = .running ∧ ∃ x, decode s.wordAtPc = .instr (.ldStVx x) ∧ t.st = s.reg x := by
  cases h with
  | instr i t hr hd ht => exact (exec_st ht).imp_right fun ⟨x, hi, hx⟩ => ⟨hr, x, hi ▸ hd, hx⟩
  | unknown | waits | waitEnds => exact .inl rfl

theorem slotEffect_diag {s t : State} (h : SlotEffect s t) : ∃ es, t.diag = s.diag ++ es := by
  cases h with
  | instr i t _ _ ht =>
    obtain ⟨es, hes⟩ := (exec_frame ht).diag
    exact ⟨_, hes.trans (by simp only [State.executing_diag, List.append_assoc]; rfl)⟩
  | unknown w =>
    exact ⟨_, by simp only [State.report_diag, State.executing_diag, List.append_assoc]; rfl⟩
  | waits | waitEnds => exact ⟨[], by simp⟩

/-! ## Steps -/

/-- Settles O54: of the kinds of step, a poll and a reset alone write KEY. -/
theorem keysChangeOnlyAtPoll : Obligations.KeysChangeOnlyAtPoll := by
  intro s t h hne
  cases step_effect h with
  | slot t _ ht => exact absurd (slotEffect_key ht) hne
  | reset rest _ hs => exact .inr ⟨rest, hs⟩
  | poll keys quit d rest _ hs => exact .inl ⟨keys, quit, d, rest, hs⟩
  | stopped | loadRejected | load | tick | tickHeldBack => exact absurd rfl hne

/-- Settles O55: of the kinds of step, a reset, a tick that occurs and a slot of FX15 or FX18 alone move a timer. -/
theorem timersMoveOnlyByTickOrInstruction : Obligations.TimersMoveOnlyByTickOrInstruction := by
  intro s t h
  cases step_effect h with
  | slot t hat ht =>
    exact ⟨fun hne => .inr (.inr ⟨hat, (slotEffect_dt ht).resolve_left hne⟩),
      fun hne => .inr (.inr ⟨hat, (slotEffect_st ht).resolve_left hne⟩)⟩
  | reset rest hst hs => exact ⟨fun _ => .inl ⟨hst, ⟨rest, hs⟩, rfl⟩, fun _ => .inl ⟨hst, ⟨rest, hs⟩, rfl⟩⟩
  | tick rest hst hs hf =>
    have hgo := frozen_eq_false.1 hf
    exact ⟨fun _ => .inr (.inl ⟨hst, ⟨rest, hs⟩, hgo, decay_toNat s.dt⟩),
      fun _ => .inr (.inl ⟨hst, ⟨rest, hs⟩, hgo, decay_toNat s.st⟩)⟩
  | poll keys quit d =>
    exact ⟨fun hne => absurd (congrArg State.dt (poll_eq keys quit d s.slotStart)) hne,
      fun hne => absurd (congrArg State.st (poll_eq keys quit d s.slotStart)) hne⟩
  | stopped | loadRejected | load | tickHeldBack => exact ⟨fun hne => absurd rfl hne, fun hne => absurd rfl hne⟩

/-- Settles O57: each kind of step adds to the reports or leaves them. -/
theorem reportsOnlyAppend : Obligations.ReportsOnlyAppend := by
  intro s t h
  cases step_effect h with
  | slot t _ ht => exact slotEffect_diag (s := s.slotStart) ht
  | loadRejected _ _ e => exact ⟨[e], rfl⟩
  | poll => rw [poll_eq]; exact ⟨[], by simp⟩
  | reset => exact ⟨[], by simp [resetAct]⟩
  | stopped | load | tick | tickHeldBack => exact ⟨[], by simp⟩

/-- A Running slot whose fetch is in range executes the word at PC, from the start of the slot (R94 to R97). -/
theorem step_running {s : State} (hat : s.atSlot) (hr : s.run = .running) (hf : s.fetchOk) :
    step s = recordStart s.slotStart (execute (decode s.wordAtPc) s.pc.toNat s.slotStart.executing) := by
  rw [step_atSlot hat, slot_running (s := s.slotStart) hr, stepInstr_ok (s := s.slotStart) hf]
  rfl

/-- 2NNN on a full stack under `STACK_POLICY = Fault` (R31, R152). -/
theorem exec_call_fault (nnn : Addr12) {s : State} (hsp : s.sp.val = 16) (hp : s.params.stackPolicy = .fault) :
    exec (.call nnn) s = .fault (.stackOverflow s.instrAddr s) := by
  rw [exec_call, push_fault hsp hp]

/-- 00EE on an empty stack under `STACK_POLICY = Fault` (R32, R152). -/
theorem exec_ret_fault {s : State} (hsp : s.sp.val = 0) (hp : s.params.stackPolicy = .fault) :
    exec .ret s = .fault (.stackUnderflow s.instrAddr s) := by
  rw [exec_ret, pop_fault hsp hp]

/-- Settles O13: the fault of the push or the pop, with the start of the slot recorded. -/
theorem stackFaultRecordsSlotStart : Obligations.StackFaultRecordsSlotStart := by
  intro s hat hr hf hp
  have ha : s.slotStart.executing.instrAddr = s.pc.toNat := instrAddr_executing (s := s.slotStart) hf.1
  refine ⟨fun nnn hd hsp => ?_, fun hd hsp => ?_⟩
  · rw [step_running hat hr hf, hd, execute, exec_call_fault nnn (s := s.slotStart.executing) hsp hp, ha]
    rfl
  · rw [step_running hat hr hf, hd, execute, exec_ret_fault (s := s.slotStart.executing) hsp hp, ha]
    rfl

/-! ## Reset -/

/-- The font is in place where nothing has been written (R54, R172). -/
theorem resetByte_font (p : Params) {k : Nat} (h : k < 80) : resetByte p (0x050 + k) = p.font[k] := by
  simp [resetByte, fontBase, h]

/-- Outside the font, memory that nothing has written reads as 0 (R43). -/
theorem resetByte_zero (p : Params) {a : Nat} (h : a < 0x050 ∨ 0x0A0 ≤ a) : resetByte p a = 0 := by
  unfold resetByte fontBase
  split
  · rw [Vector.getElem?_eq_none (by omega)]; rfl
  · rfl

theorem reset_reg (z : Reg) : State.reset.reg z = 0 := by simp [State.reg, State.reset]

theorem reset_keyDown (k : Nat) : State.reset.keyDown k = false := by
  unfold State.keyDown
  split <;> simp [State.reset]

/-- Settles O49. -/
theorem resetStateValues : Obligations.ResetStateValues :=
  ⟨rfl, rfl, rfl, rfl, rfl, rfl, reset_reg, fun k hk => by simp [State.reset, hk], Frame.get_clear, reset_keyDown,
    rfl, rfl, rfl, rfl, fun _ hk => resetByte_font defaultParams hk, fun _ ha => resetByte_zero defaultParams ha⟩

end Sys2Proof.Machine
end

section
/-! PROOFS. Memory and the fetch: canonical memories as data (R50), a byte written and read back (R57), `Addr` by `OOB_POLICY`
(R56), which bytes an instruction stores to (R60, R129) and what the next fetch reads of them (R58, R181). -/

namespace Sys2Proof.Machine

/-! ## Canonical memories -/

/-- In a list of rising addresses, the listed value of an address is the one value it stands with. -/
theorem Memory.lookup_eq_some_iff {m : Memory} (h : m.Pairwise fun c d => c.1 < d.1) {a : Nat} {v : Byte} :
    Memory.lookup m a = some v ↔ (a, v) ∈ m := by
  induction m with
  | nil => simp [Memory.lookup]
  | cons c m ih =>
    obtain ⟨d, w⟩ := c
    obtain ⟨hlt, hm⟩ := List.pairwise_cons.1 h
    by_cases ha : a = d
    · subst ha
      have hnot : (a, v) ∉ m := fun hmem => Nat.lt_irrefl a (hlt _ hmem)
      simp [Memory.lookup, hnot, eq_comm]
    · simp [Memory.lookup, ha, ih hm]

/-- What a canonical memory lists: each address that does not read as its reset contents, with what it reads as. -/
theorem Memory.mem_iff_read {p : Params} {m : Memory} (h : Memory.wf p m) {a : Nat} {v : Byte} :
    (a, v) ∈ m ↔ Memory.read p m a = v ∧ v ≠ resetByte p a := by
  obtain ⟨hrising, hcells⟩ := h
  rw [← Memory.lookup_eq_some_iff hrising]
  cases hl : Memory.lookup m a with
  | none => simp [Memory.read, hl, eq_comm]
  | some w =>
    have hw : w ≠ resetByte p a := (hcells _ ((Memory.lookup_eq_some_iff hrising).1 hl)).2
    simp only [Memory.read, hl, Option.some.injEq, Option.getD_some]
    exact ⟨fun e => ⟨e, e ▸ hw⟩, And.left⟩

theorem Memory.eq_of_read_eq {p : Params} {m m' : Memory} (h : Memory.wf p m) (h' : Memory.wf p m')
    (hread : ∀ a, Memory.read p m a = Memory.read p m' a) : m = m' :=
  List.Pairwise.eq_of_mem_iff (r := InvImage (· < ·) Prod.fst) h.1 h'.1 fun _ => by
    rw [Memory.mem_iff_read h, Memory.mem_iff_read h', hread]

/-- Settles O9: a canonical list is fixed by what its addresses read as. -/
theorem canonicalMemoriesAreEqualData : Obligations.CanonicalMemoriesAreEqualData :=
  ⟨fun _ _ _ _ ha h => Memory.write_wf ha h, fun _ _ _ h h' hread => Memory.eq_of_read_eq h h' hread⟩

/-! ## Frames of a store and of a report -/

theorem keeps_writeByte (s : State) (a : Nat) (v : Byte) : Keeps [.memory] s (s.writeByte a v) := by
  intro p hp
  cases p with
  | memory => simp at hp
  | _ => simp [SamePart]

theorem keeps_reports (s : State) (es : List Event) : Keeps [.events] s (s.reports es) := by
  intro p hp
  cases p with
  | events => simp at hp
  | _ => simp [SamePart]

/-- Settles O8. -/
theorem memoryReadAfterWrite : Obligations.MemoryReadAfterWrite :=
  fun s a b v => ⟨s.readByte_writeByte a v b, keeps_writeByte s a v⟩

/-! ## Forming an address -/

theorem oobReport_inRange {a e : Nat} (h : e ≤ 0xFFF) : oobReport a e = [] := if_pos h

theorem oobReport_above {a e : Nat} (h : 0xFFF < e) : oobReport a e = [.outOfBoundsAddress e a] := if_neg (by omega)

/-- Settles O7: the two ways an address is formed, and the fault. -/
theorem addrWrapsOrFaults : Obligations.AddrWrapsOrFaults := by
  intro a start s e k
  refine ⟨fun h => ?_, fun h hp => ?_, fun h hp => formAddrAt_fault h hp⟩
  · rw [formAddrAt_ok (.inl h), Nat.mod_eq_of_lt (by omega), oobReport_inRange h, State.reports_nil]
  · rw [formAddrAt_ok (.inr hp), oobReport_above h]
    exact ⟨_, rfl, keeps_reports s _, rfl⟩

/-! ## Stores -/

/-- Settles O52: the only effect on memory is that of `stores`, on the addresses the instruction stores to. -/
theorem onlyStoredBytesChange : Obligations.OnlyStoredBytesChange := by
  intro i s t a h hne
  cases exec_effect h with
  | stores kbs _ hk =>
    by_contra hno
    exact hne (read_blockMem_other fun kb hkb ha => hno (ha ▸ hk kb hkb))
  | _ => exact absurd rfl hne

theorem mem_regBlock (s : State) {x z : Reg} (h : z.toNat ≤ x.toNat) : (z.toNat, s.reg z) ∈ s.regBlock x :=
  List.mem_map.2 ⟨z.toNat, List.mem_range.2 (by omega), by simp⟩

theorem regBlock_offsets (s : State) (x : Reg) : (s.regBlock x).map Prod.fst = List.range (x.toNat + 1) := by
  simp [State.regBlock, Function.comp_def]

theorem regBlock_offset_lt (s : State) (x : Reg) {kb : Nat × Byte} (h : kb ∈ s.regBlock x) : kb.1 < 0x1000 := by
  have hk : kb.1 ∈ List.range (x.toNat + 1) := regBlock_offsets s x ▸ List.mem_map_of_mem h
  have := List.mem_range.1 hk
  omega

/-- What FX55 leaves where it stores register Z: its value (R129). -/
theorem exec_ldMemVx_readByte {x z : Reg} {s t : State} (h : exec (.ldMemVx x) s = .next t) (hz : z.toNat ≤ x.toNat) :
    t.readByte ((s.index.toNat + z.toNat) % 0x1000) = s.reg z := by
  rw [writeBlock_next h]
  exact read_blockMem_self (mem_regBlock s hz) (regBlock_offsets s x ▸ List.nodup_range)
    fun _ hkb => regBlock_offset_lt s x hkb

/-- FX55 leaves PC as it is. -/
theorem exec_ldMemVx_pc {x : Reg} {s t : State} (h : exec (.ldMemVx x) s = .next t) : t.pc = s.pc := by
  rw [writeBlock_next h]
  rfl

/-- Settles O30: V0 is stored at PC and V1 at the address after it, where the fetch reads them. -/
theorem storeIsSeenByNextFetch : Obligations.StoreIsSeenByNextFetch := by
  intro x s t hx hI hpc h
  have hfirst : (s.index.toNat + (0x0#4).toNat) % 0x1000 = s.pc.toNat := by
    rw [hI]
    exact Nat.mod_eq_of_lt (Nat.lt_succ_of_le hpc)
  have h0 : t.readByte s.pc.toNat = s.reg 0x0#4 := hfirst ▸ exec_ldMemVx_readByte h (Nat.zero_le _)
  have h1 : t.readByte ((s.pc.toNat + 1) % 0x1000) = s.reg 0x1#4 := hI ▸ exec_ldMemVx_readByte (z := 0x1#4) h hx
  rw [State.wordAtPc, exec_ldMemVx_pc h, h0, h1]

/-! ## The step of an instruction -/

theorem slotStart_of_script_nil {s : State} (h : s.script = []) : s.slotStart = s := by
  rw [State.slotStart, h, List.tail_nil, ← h]

/-- Settles O38: a Running slot, which executes the word at PC, for each form the slot can have. -/
theorem stepRunsDecodedInstruction : Obligations.StepRunsDecodedInstruction := by
  intro s i hst hr hf _ hbytes
  have hd : decode s.wordAtPc = .instr i := (Decoded.op.inj hbytes).1
  refine ⟨fun hs => ?_, fun rest hs => ?_⟩
  · rw [step_running ⟨hst, .inl hs⟩ hr hf, hd, slotStart_of_script_nil hs]
    rfl
  · rw [step_running ⟨hst, .inr (by simp [hs])⟩ hr hf, hd, ← slotStart_eq hs]
    rfl

end Sys2Proof.Machine
end

section
/-! PROOFS. The encoding: the decoder as the inverse of the encoder on well-formed descriptors and on words (R75 to R77, R88,
R89), the words it leaves unrecognized (R85), and the tables by class on words written nibble by nibble (R80 to R84, R86). -/

namespace Sys2Proof.Machine

/-! ## The table of unrecognized words, class by class -/

/-- The classes with one instruction each, and no unrecognized word (R80). -/
def oneInstrClass (c : BitVec 4) : Bool :=
  c ∉ [0x0#4, 0x5#4, 0x8#4, 0x9#4, 0xE#4, 0xF#4]

theorem unrecognized_class0 {w : Word} (hc : fieldC w = 0x0#4) :
    unrecognized w = true ↔ w ≠ 0x00E0#16 ∧ w ≠ 0x00EE#16 := by
  simp [unrecognized, ← toNat_fieldC, hc, BitVec.toNat_eq]

theorem unrecognized_class5 {w : Word} (hc : fieldC w = 0x5#4) : unrecognized w = true ↔ fieldN w ≠ 0x0#4 := by
  simp [unrecognized, ← toNat_fieldC, ← toNat_fieldN, hc, BitVec.toNat_eq]

theorem unrecognized_class8 {w : Word} (hc : fieldC w = 0x8#4) :
    unrecognized w = true ↔ (fieldN w).toNat ∉ [0x0, 0x1, 0x2, 0x3, 0x4, 0x5, 0x6, 0x7, 0xE] := by
  simp only [unrecognized, ← toNat_fieldC, ← toNat_fieldN, hc, BitVec.toNat_ofNat, Nat.reducePow, Nat.reduceMod,
    Nat.reduceBEq, Bool.false_and, Bool.or_self, BEq.rfl, Bool.true_and, Bool.false_or, Bool.or_false, Bool.or_eq_true,
    beq_iff_eq, List.mem_cons, List.not_mem_nil, or_false, not_or]
  omega

theorem unrecognized_class9 {w : Word} (hc : fieldC w = 0x9#4) : unrecognized w = true ↔ fieldN w ≠ 0x0#4 := by
  simp [unrecognized, ← toNat_fieldC, ← toNat_fieldN, hc, BitVec.toNat_eq]

theorem unrecognized_classE {w : Word} (hc : fieldC w = 0xE#4) :
    unrecognized w = true ↔ fieldKK w ≠ 0x9E#8 ∧ fieldKK w ≠ 0xA1#8 := by
  simp [unrecognized, ← toNat_fieldC, ← toNat_fieldKK, hc, BitVec.toNat_eq]

theorem unrecognized_classF {w : Word} (hc : fieldC w = 0xF#4) :
    unrecognized w = true ↔ fieldKK w ∉ [0x07#8, 0x0A#8, 0x15#8, 0x18#8, 0x1E#8, 0x29#8, 0x33#8, 0x55#8, 0x65#8] := by
  simp [unrecognized, ← toNat_fieldC, ← toNat_fieldKK, hc, BitVec.toNat_eq, and_assoc]

theorem unrecognized_oneInstrClass {w : Word} (hc : oneInstrClass (fieldC w) = true) : unrecognized w = false := by
  simp_all [oneInstrClass, unrecognized, ← toNat_fieldC, BitVec.toNat_eq]

/-- No instruction's word is in the table of R85. -/
theorem unrecognized_encode (i : Instr) : unrecognized (encode i) = false := by
  cases i with
  | cls | ret => decide
  | jp | call | ldI | jpV0 => exact unrecognized_oneInstrClass (by rw [encode, fieldC_encNNN]; decide)
  | seImm | sneImm | ldImm | addImm | rnd => exact unrecognized_oneInstrClass (by rw [encode, fieldC_encXKK]; decide)
  | drw => exact unrecognized_oneInstrClass (by rw [encode, fieldC_encXYN]; decide)
  | seReg => simp [← Bool.not_eq_true, encode, unrecognized_class5]
  | sneReg => simp [← Bool.not_eq_true, encode, unrecognized_class9]
  | ldReg | orReg | andReg | xorReg | addReg | subReg | shr | subn | shl =>
    simp [← Bool.not_eq_true, encode, unrecognized_class8]
  | skp | sknp => simp [← Bool.not_eq_true, encode, unrecognized_classE]
  | ldVxDt | ldVxK | ldDtVx | ldStVx | addI | ldF | ldB | ldMemVx | ldVxMem =>
    simp [← Bool.not_eq_true, encode, unrecognized_classF]

/-! ## The word from its fields -/

theorem encNNN_fields (w : Word) : encNNN (fieldC w) (fieldNNN w) = w := by
  apply BitVec.eq_of_toNat_eq
  rw [toNat_encNNN, toNat_fieldC, toNat_fieldNNN]
  omega

theorem encXKK_fields (w : Word) : encXKK (fieldC w) (fieldX w) (fieldKK w) = w := by
  apply BitVec.eq_of_toNat_eq
  rw [toNat_encXKK, toNat_fieldC, toNat_fieldX, toNat_fieldKK]
  omega

theorem encXYN_fields (w : Word) : encXYN (fieldC w) (fieldX w) (fieldY w) (fieldN w) = w := by
  apply BitVec.eq_of_toNat_eq
  rw [toNat_encXYN, toNat_fieldC, toNat_fieldX, toNat_fieldY, toNat_fieldN]
  omega

/-! ## What the decoder can answer -/

/-- What `op` may be as the descriptor of `w`: an instruction with `w` as its word, or `Unknown(w)` of a word in the table of
R85. -/
inductive Describes (w : Word) : Op → Prop where
  | instr (i : Instr) (hw : encode i = w) : Describes w (.instr i)
  | unknown (hu : unrecognized w = true) : Describes w (.unknown w)

namespace Describes

theorem of_encXYN {w : Word} {i : Instr} {c : BitVec 4} {n : Nibble} (hi : encode i = encXYN c (fieldX w) (fieldY w) n)
    (hc : fieldC w = c) (hn : fieldN w = n) : Describes w (.instr i) :=
  .instr i (by rw [hi, ← hc, ← hn, encXYN_fields])

theorem of_encXKK {w : Word} {i : Instr} {c : BitVec 4} {kk : Byte} (hi : encode i = encXKK c (fieldX w) kk)
    (hc : fieldC w = c) (hk : fieldKK w = kk) : Describes w (.instr i) :=
  .instr i (by rw [hi, ← hc, ← hk, encXKK_fields])

theorem of_encNNN {w : Word} {i : Instr} {c : BitVec 4} (hi : encode i = encNNN c (fieldNNN w))
    (hc : fieldC w = c) : Describes w (.instr i) :=
  .instr i (by rw [hi, ← hc, encNNN_fields])

variable {w : Word} {op : Op}

theorem encodeOp_eq (h : Describes w op) : encodeOp op = w := by
  cases h with
  | instr _ hw => exact hw
  | unknown => rfl

theorem wf (h : Describes w op) : op.wf = true := by
  cases h with
  | instr => rfl
  | unknown hu => exact hu

theorem eq_unknown (h : Describes w op) (hu : unrecognized w = true) : op = .unknown w := by
  cases h with
  | instr i hw =>
    rw [← hw, unrecognized_encode] at hu
    cases hu
  | unknown => rfl

theorem exists_instr (h : Describes w op) (hu : unrecognized w = false) : ∃ i, op = .instr i := by
  cases h with
  | instr i => exact ⟨i, rfl⟩
  | unknown hu' => exact absurd hu' (Bool.eq_false_iff.1 hu)

end Describes

theorem describes_decode0 {w : Word} (hc : fieldC w = 0x0#4) : Describes w (decode0 w) := by
  unfold decode0
  split
  · next h => exact .instr _ h.symm
  · split
    · next h => exact .instr _ h.symm
    · next h1 h2 => exact .unknown ((unrecognized_class0 hc).2 ⟨h1, h2⟩)

theorem describes_decode5 {w : Word} (hc : fieldC w = 0x5#4) : Describes w (decode5 w) := by
  unfold decode5
  split
  · next hn => exact .of_encXYN rfl hc hn
  · next hn => exact .unknown ((unrecognized_class5 hc).2 hn)

theorem describes_decode8 {w : Word} (hc : fieldC w = 0x8#4) : Describes w (decode8 w) := by
  unfold decode8
  split
  case h_10 =>
    simp only [imp_false] at *
    exact .unknown ((unrecognized_class8 hc).2 (by simp [*]))
  all_goals
    next hn => exact .of_encXYN rfl hc (BitVec.eq_of_toNat_eq hn)

theorem describes_decode9 {w : Word} (hc : fieldC w = 0x9#4) : Describes w (decode9 w) := by
  unfold decode9
  split
  · next hn => exact .of_encXYN rfl hc hn
  · next hn => exact .unknown ((unrecognized_class9 hc).2 hn)

theorem describes_decodeE {w : Word} (hc : fieldC w = 0xE#4) : Describes w (decodeE w) := by
  unfold decodeE
  split
  · next hk => exact .of_encXKK rfl hc hk
  · split
    · next hk => exact .of_encXKK rfl hc hk
    · next h1 h2 => exact .unknown ((unrecognized_classE hc).2 ⟨h1, h2⟩)

theorem describes_decodeF {w : Word} (hc : fieldC w = 0xF#4) : Describes w (decodeF w) := by
  unfold decodeF
  iterate 9
    split
    · next hk => exact .of_encXKK rfl hc hk
  exact .unknown ((unrecognized_classF hc).2 (by simp [*]))

/-- What the decoder answers describes the word (R77, R88). -/
theorem describes_decode (w : Word) : Describes w (decode w) := by
  unfold decode
  split
  case h_1 h => exact describes_decode0 (BitVec.eq_of_toNat_eq h)
  case h_6 h => exact describes_decode5 (BitVec.eq_of_toNat_eq h)
  case h_9 h => exact describes_decode8 (BitVec.eq_of_toNat_eq h)
  case h_10 h => exact describes_decode9 (BitVec.eq_of_toNat_eq h)
  case h_15 h => exact describes_decodeE (BitVec.eq_of_toNat_eq h)
  case h_16 =>
    simp only [imp_false] at *
    exact describes_decodeF (by bv_omega)
  case h_2 h | h_3 h | h_11 h | h_12 h => exact .of_encNNN rfl (BitVec.eq_of_toNat_eq h)
  case h_4 h | h_5 h | h_7 h | h_8 h | h_13 h => exact .of_encXKK rfl (BitVec.eq_of_toNat_eq h) rfl
  case h_14 h => exact .of_encXYN rfl (BitVec.eq_of_toNat_eq h) rfl

/-! ## The classes with a sub-table (R81 to R84, R86) -/

theorem decode_class0 {w : Word} (hc : fieldC w = 0x0#4) : decode w = decode0 w := by simp [decode, hc]
theorem decode_class5 {w : Word} (hc : fieldC w = 0x5#4) : decode w = decode5 w := by simp [decode, hc]
theorem decode_class8 {w : Word} (hc : fieldC w = 0x8#4) : decode w = decode8 w := by simp [decode, hc]
theorem decode_class9 {w : Word} (hc : fieldC w = 0x9#4) : decode w = decode9 w := by simp [decode, hc]
theorem decode_classE {w : Word} (hc : fieldC w = 0xE#4) : decode w = decodeE w := by simp [decode, hc]
theorem decode_classF {w : Word} (hc : fieldC w = 0xF#4) : decode w = decodeF w := by simp [decode, hc]

/-! ## Decoding and encoding -/

theorem decode_encode (i : Instr) : decode (encode i) = .instr i := by
  cases i with
  | cls | ret => decide
  | jp | call | ldI | jpV0 | seImm | sneImm | ldImm | addImm | rnd | drw => simp [decode, encode]
  | seReg => simp [encode, decode_class5, decode5]
  | sneReg => simp [encode, decode_class9, decode9]
  | ldReg | orReg | andReg | xorReg | addReg | subReg | shr | subn | shl => simp [encode, decode_class8, decode8]
  | skp | sknp => simp [encode, decode_classE, decodeE]
  | ldVxDt | ldVxK | ldDtVx | ldStVx | addI | ldF | ldB | ldMemVx | ldVxMem => simp [encode, decode_classF, decodeF]

theorem decode_encodeOp {op : Op} (h : op.wf = true) : decode (encodeOp op) = op := by
  cases op with
  | instr i => exact decode_encode i
  | unknown w => exact (describes_decode w).eq_unknown h

/-- Settles O2: the bytes of the descriptor's word are read back as that word, which decodes to the descriptor. -/
theorem decodeOfEncodeIsIdentity : Obligations.DecodeOfEncodeIsIdentity := by
  intro op rest h
  rw [decodeBytes, wordOfBytes_bytesOfWord, decode_encodeOp h]

/-- Settles O3: the decoder's answer describes the word. -/
theorem encodeOfDecodeIsIdentity : Obligations.EncodeOfDecodeIsIdentity :=
  fun w => ⟨(describes_decode w).encodeOp_eq, (describes_decode w).wf⟩

/-- Settles O4: `Unknown(w)` is the one description of a word in the table, and describes no other word. -/
theorem unrecognizedWordsExactly : Obligations.UnrecognizedWordsExactly :=
  fun w => ⟨(describes_decode w).eq_unknown, (describes_decode w).exists_instr⟩

/-! ## Words written nibble by nibble -/

theorem wordOfNibbles_eq_encXYN (c x y n : BitVec 4) : wordOfNibbles c x y n = encXYN c x y n := by
  apply BitVec.eq_of_toNat_eq
  rw [toNat_encXYN, wordOfNibbles, BitVec.toNat_ofNat]
  omega

@[simp] theorem fieldC_wordOfNibbles (c x y n : BitVec 4) : fieldC (wordOfNibbles c x y n) = c := by
  rw [wordOfNibbles_eq_encXYN, fieldC_encXYN]

@[simp] theorem fieldX_wordOfNibbles (c x y n : BitVec 4) : fieldX (wordOfNibbles c x y n) = x := by
  rw [wordOfNibbles_eq_encXYN, fieldX_encXYN]

@[simp] theorem fieldY_wordOfNibbles (c x y n : BitVec 4) : fieldY (wordOfNibbles c x y n) = y := by
  rw [wordOfNibbles_eq_encXYN, fieldY_encXYN]

@[simp] theorem fieldN_wordOfNibbles (c x y n : BitVec 4) : fieldN (wordOfNibbles c x y n) = n := by
  rw [wordOfNibbles_eq_encXYN, fieldN_encXYN]

@[simp] theorem fieldKK_wordOfNibbles (c x y n : BitVec 4) : fieldKK (wordOfNibbles c x y n) = byteOfNibbles y n := by
  apply BitVec.eq_of_toNat_eq
  rw [wordOfNibbles_eq_encXYN, toNat_fieldKK, toNat_encXYN, byteOfNibbles, BitVec.toNat_ofNat]
  omega

@[simp] theorem fieldNNN_wordOfNibbles (c x y n : BitVec 4) :
    fieldNNN (wordOfNibbles c x y n) = addrOfNibbles x y n := by
  apply BitVec.eq_of_toNat_eq
  rw [wordOfNibbles_eq_encXYN, toNat_fieldNNN, toNat_encXYN, addrOfNibbles, BitVec.toNat_ofNat]
  omega

theorem byteOfNibbles_eq_iff (y n : BitVec 4) (kk : Byte) :
    byteOfNibbles y n = kk ↔ y.toNat * 0x10 + n.toNat = kk.toNat := by
  rw [BitVec.toNat_eq, byteOfNibbles, BitVec.toNat_ofNat, Nat.mod_eq_of_lt (by omega)]

/-- Settles O5: the class of each word selects its row, whose operands are the fields written. -/
theorem classSelectsInstruction : Obligations.ClassSelectsInstruction := by
  intro x y n
  simp [decode]

/-- Settles O6: each sub-table is that of its class, with the fields for the nibbles written. -/
theorem subTablesSelectInstruction : Obligations.SubTablesSelectInstruction := by
  intro x y n
  refine ⟨(decode_class0 (fieldC_wordOfNibbles ..)).trans ?_, (decode_class5 (fieldC_wordOfNibbles ..)).trans ?_,
    (decode_class8 (fieldC_wordOfNibbles ..)).trans ?_, (decode_class9 (fieldC_wordOfNibbles ..)).trans ?_,
    (decode_classE (fieldC_wordOfNibbles ..)).trans ?_, (decode_classF (fieldC_wordOfNibbles ..)).trans ?_⟩
  · simp [decode0, BitVec.toNat_eq]
  · simp [decode5, BitVec.toNat_eq]
  · simp only [decode8, fieldX_wordOfNibbles, fieldY_wordOfNibbles, fieldN_wordOfNibbles]
    split
    case h_10 =>
      simp only [imp_false] at *
      simp [*]
    all_goals simp [*]
  · simp [decode9, BitVec.toNat_eq]
  · simp [decodeE, byteOfNibbles_eq_iff]
  · simp [decodeF, byteOfNibbles_eq_iff]

/-- Settles O1: each pair of bytes is one word, high byte first. -/
theorem specListingDecodes : Obligations.SpecListingDecodes := by
  unfold Obligations.SpecListingDecodes
  decide

end Sys2Proof.Machine
end

section
/-! PROOFS. Nested calls and returns (R31, R32, R103, R105; E3 of 95_test_vectors), the wait slot (R101, R140) and the slot of an
unrecognized word (R98, R150). -/

namespace Sys2Proof.Machine

/-! ## Frames in a row -/

theorem SamePart.trans {p : Part} {s t u : State} (h : SamePart p s t) (h' : SamePart p t u) : SamePart p s u := by
  cases p with
  | memory | regs => exact fun a => (h' a).trans (h a)
  | stack | display => exact ⟨h'.1.trans h.1, h'.2.trans h.2⟩
  | sched =>
    obtain ⟨haccI, haccF, hstopped, hloadOpen, hscript⟩ := h
    obtain ⟨haccI', haccF', hstopped', hloadOpen', hscript'⟩ := h'
    exact ⟨haccI'.trans haccI, haccF'.trans haccF, hstopped'.trans hstopped, hloadOpen'.trans hloadOpen,
      hscript'.trans hscript⟩
  | params | index | pc | delay | sound | screen | keys | run | draws | events => exact Eq.trans h' h

theorem Keeps.trans {ps : List Part} {s t u : State} (h : Keeps ps s t) (h' : Keeps ps t u) : Keeps ps s u :=
  fun p hp => (h p hp).trans (h' p hp)

/-! ## Calls and returns -/

/-- What a call and a return may write: PC, the stack and SP. -/
theorem keeps_pc_stack (s : State) (pc : Word) (stack : Vector Word 16) (sp : Fin 17) :
    Keeps [.pc, .stack] s { s with pc := pc, stack := stack, sp := sp } := by
  intro p hp
  cases p with
  | pc | stack => simp at hp
  | sched | display => simp [SamePart]
  | memory | regs => exact fun _ => rfl
  | _ => rfl

/-- 2NNN with room on the stack (R105). -/
theorem exec_call_ok (nnn : Addr12) {s : State} (h : s.sp.val < 16) :
    exec (.call nnn) s = .next ((s.pushEntry s.pc h).setPc nnn.toNat) := by
  rw [exec_call, push_ok h]

/-- 00EE with an entry in use (R103). -/
theorem exec_ret_ok {s : State} (h : s.sp.val ≠ 0) : exec .ret s = .next (s.popEntry.setPc s.topEntry.toNat) := by
  rw [exec_ret, pop_ok h]

/-- One more return than `k` is a return after the `k`. -/
theorem returnTimes_succ {k : Nat} {s t : State} (h : returnTimes k s = .next t) :
    returnTimes (k + 1) s = exec .ret t := by
  induction k generalizing s with
  | zero =>
    cases h
    rw [returnTimes]
    cases exec .ret t <;> rfl
  | succ k ih =>
    rw [returnTimes] at h ⊢
    cases hs : exec .ret s with
    | next s1 => rw [hs] at h; exact ih h
    | fault | refused => rw [hs] at h; cases h

/-- `t` is `s` but for PC and for the stack entries above those in use. -/
structure StackRestored (s t : State) : Prop where
  sp : t.sp = s.sp
  below : ∀ k : Nat, k < s.sp.val → t.stack[k]? = s.stack[k]?
  keeps : Keeps [.pc, .stack] s t

/-- The state after a call from PC = p that the stack has room for. -/
def State.called (s : State) (p : Word) (nnn : Addr12) (h : s.sp.val < 16) : State :=
  (State.pushEntry { s with pc := p } p h).setPc nnn.toNat

theorem callEach_cons {p : Word} {nnn : Addr12} {rest : List (Word × Addr12)} {s : State} (h : s.sp.val < 16) :
    callEach ((p, nnn) :: rest) s = callEach rest (s.called p nnn h) := by
  rw [callEach, exec_call_ok nnn (s := { s with pc := p }) h]
  rfl

/-- A return from where the stack is as the call left it undoes the call, and PC is the PC of the call. -/
theorem exec_ret_of_called {s t : State} {p : Word} {nnn : Addr12} {h : s.sp.val < 16}
    (ht : StackRestored (s.called p nnn h) t) : ∃ u, exec .ret t = .next u ∧ u.pc = p ∧ StackRestored s u := by
  obtain ⟨hsp, hbelow, hkeeps⟩ := ht
  have hsp : t.sp.val = s.sp.val + 1 := congrArg Fin.val hsp
  have hentry : ∀ k, k ≤ s.sp.val → t.stack[k]? = (s.stack.set s.sp.val p h)[k]? := fun k hk =>
    hbelow k (Nat.lt_succ_of_le hk)
  have htop : t.topEntry = p := by
    rw [State.topEntry, hsp, Nat.add_sub_cancel, hentry _ (Nat.le_refl _)]
    simp
  refine ⟨_, exec_ret_ok (by omega), ?_, Fin.ext (by simp [hsp]), fun k hk => ?_, ?_⟩
  · simp [htop]
  · rw [State.setPc_stack, State.popEntry_stack, hentry k (Nat.le_of_lt hk)]
    exact Vector.getElem?_set_ne _ (Nat.ne_of_gt hk)
  · exact ((keeps_pc_stack s _ _ _).trans hkeeps).trans (keeps_pc_stack t _ _ _)

/-- Calls in a row and as many returns: the first call, the other calls with their returns, and the return of the first. -/
theorem callEach_returnTimes (calls : List (Word × Addr12)) (s : State) (h : s.sp.val + calls.length ≤ 16) :
    ∃ u t, callEach calls s = .next u ∧ u.sp.val = s.sp.val + calls.length ∧ returnTimes calls.length u = .next t ∧
      (∀ p nnn rest, calls = (p, nnn) :: rest → t.pc = p) ∧ StackRestored s t := by
  induction calls generalizing s with
  | nil => exact ⟨s, s, rfl, rfl, rfl, by simp, rfl, fun _ _ => rfl, keeps_pc_stack s s.pc s.stack s.sp⟩
  | cons call rest ih =>
    obtain ⟨p, nnn⟩ := call
    rw [List.length_cons] at h
    have hroom : s.sp.val < 16 := by omega
    have hsp : (s.called p nnn hroom).sp.val = s.sp.val + 1 := rfl
    obtain ⟨u, t1, hcalls, hu, hreturns, -, hrestored⟩ := ih (s.called p nnn hroom) (by omega)
    obtain ⟨t, hret, hpc, ht⟩ := exec_ret_of_called hrestored
    refine ⟨u, t, (callEach_cons hroom).trans hcalls, ?_, (returnTimes_succ hreturns).trans hret, ?_, ht⟩
    · rw [List.length_cons]
      omega
    · rintro _ _ _ ⟨⟩
      exact hpc

/-- Settles O18, by induction on the calls: each return undoes the last call that still stands. -/
theorem nestedCallsReturn : Obligations.NestedCallsReturn := by
  intro calls s h
  obtain ⟨u, t, hcalls, hu, hreturns, hpc, hsp, hbelow, hkeeps⟩ := callEach_returnTimes calls s h
  exact ⟨u, t, hcalls, hu, hreturns, hsp, hpc, hbelow, hkeeps⟩

/-! ## Wait slots -/

theorem trunc8_toNat {n : Nat} (h : n < 256) : (trunc8 n).toNat = n := 
  (BitVec.toNat_ofNat n 8).trans (Nat.mod_eq_of_lt h)

/-- A step whose slot is a wait slot (R101, R140). -/
theorem step_waiting {x : Reg} {s : State} (hat : s.atSlot) (hr : s.run = .waitKey x) :
    step s = .next (waitSlot x s.slotStart.openSlot) := by
  rw [step_atSlot hat, slot_waiting (s := s.slotStart) hr]

/-- The Scheduler's side of a slot (R158, R175) is that of every state that agrees in it with the opened slot. -/
theorem slotTaken_of_sched {s t : State} (hat : s.atSlot) (h : SamePart .sched s.slotStart.openSlot t) : SlotTaken s t := by
  obtain ⟨haccI, haccF, hstopped, hloadOpen, hscript⟩ := h
  exact ⟨hscript, hstopped.trans hat.1, hloadOpen, haccI, haccF⟩

theorem keeps_openSlot (s : State) : Keeps [.sched] s s.slotStart.openSlot := by
  intro p hp
  cases p with
  | sched => simp at hp
  | _ => simp [SamePart]

/-- A wait that ends writes VX and RUN, beside what opening the slot writes. -/
theorem keeps_waitEnds (s : State) (x : Reg) (b : Byte) :
    Keeps [.regs, .run, .sched] s ((s.slotStart.openSlot.setReg x b).setRun .running) := by
  intro p hp
  cases p with
  | regs | run | sched => simp at hp
  | _ => simp [SamePart]

/-- Settles O36: the wait slot with the lowest pressed key, and with none. -/
theorem waitSlotEndsOnKey : Obligations.WaitSlotEndsOnKey := by
  intro x s hat hr
  rw [step_waiting hat hr]
  refine ⟨fun k hk hlow => ?_, fun hnone => ?_⟩
  · have hkey : s.slotStart.openSlot.lowestKey = some k := lowestKey_eq (s := s) hk hlow
    have hlt : k < 16 := keyDown_lt hk
    rw [waitSlot_some hkey]
    refine ⟨_, rfl, rfl, ?_, fun z hz => State.reg_setReg_ne _ _ hz, slotTaken_of_sched hat (by simp [SamePart]),
      keeps_waitEnds s x _⟩
    rw [State.setRun_reg, State.reg_setReg_same, trunc8_toNat (by omega)]
  · have hkey : s.slotStart.openSlot.lowestKey = none := lowestKey_none.2 fun k _ => hnone k
    rw [waitSlot_none hkey]
    exact ⟨_, rfl, slotTaken_of_sched hat (by simp [SamePart]), keeps_openSlot s⟩

/-! ## The slot of an unrecognized word -/

/-- A step on an unrecognized word: the fetch, the advance and the report (R98). -/
theorem step_unknown {s : State} (hat : s.atSlot) (hr : s.run = .running) (hf : s.fetchOk)
    (hu : unrecognized s.wordAtPc = true) :
    step s = .next (s.slotStart.executing.report (.unknownOpcode s.pc.toNat s.wordAtPc)) := by
  rw [step_running hat hr hf, (describes_decode s.wordAtPc).eq_unknown hu]
  rfl

theorem keeps_executing_report (s : State) (e : Event) :
    Keeps [.pc, .events, .sched] s (s.slotStart.executing.report e) := by
  intro p hp
  cases p with
  | pc | events | sched => simp at hp
  | _ => simp [SamePart]

/-- Settles O39: the fetch and the advance leave PC and their reports, and the word adds its own. -/
theorem unknownOpcodeOnlyReports : Obligations.UnknownOpcodeOnlyReports := by
  intro s hat hr hf hu
  refine ⟨_, step_unknown hat hr hf hu, ?_, rfl, slotTaken_of_sched hat (by simp [SamePart]), keeps_executing_report s _⟩
  simp only [State.report_pc, State.executing_pc, State.slotStart_pc, BitVec.toNat_ofNat]
  omega

end Sys2Proof.Machine
end

section
/-! PROOFS. Control transfer: the jumps 1NNN and BNNN (R104, R106), one call and one return with their stack conditions (R31, R32,
R103, R105), and the skips (R102, R107 to R110, R136 to R138). -/

namespace Sys2Proof.Machine

/-! ## Frames of a jump -/

theorem Keeps.mono {ps qs : List Part} {s t : State} (h : Keeps ps s t) (hsub : ps ⊆ qs) : Keeps qs s t :=
  fun p hp => h p fun hm => hp (hsub hm)

theorem keeps_setPc (s : State) (e : Nat) : Keeps [.pc] s (s.setPc e) := by
  intro p hp
  cases p with
  | pc => simp at hp
  | _ => simp [SamePart]

theorem keeps_reports_setPc (s : State) (es : List Event) (e : Nat) : Keeps [.pc, .events] s ((s.reports es).setPc e) :=
  ((keeps_reports s es).mono (by simp)).trans ((keeps_setPc _ e).mono (by simp))

/-! ## Jumps -/

theorem setPc_pc_toNat (s : State) {e : Nat} (h : e < 0x10000) : (s.setPc e).pc.toNat = e :=
  (BitVec.toNat_ofNat e 16).trans (Nat.mod_eq_of_lt h)

/-- `t` is `s` after `PC <- Addr(e)` in the instruction at its own address (R56, R102, R106). -/
def JumpedTo (e : Nat) (s t : State) : Prop :=
  t.pc.toNat = e % 0x1000 ∧ t.diag = s.diag ++ oobReport s.instrAddr e ∧ Keeps [.pc, .events] s t

theorem jumpedTo_setPc (e : Nat) (s : State) :
    JumpedTo e s ((s.reports (oobReport s.instrAddr e)).setPc (e % 0x1000)) :=
  ⟨setPc_pc_toNat _ (by omega), rfl, keeps_reports_setPc s _ _⟩

/-- Settles O10. -/
theorem jumpSetsPc : Obligations.JumpSetsPc :=
  fun nnn s => ⟨_, exec_jp s nnn, setPc_pc_toNat s (by omega), keeps_setPc s _⟩

/-- BNNN where Addr(nnn + V0) gives an address (R106). -/
theorem exec_jpV0_ok (nnn : Addr12) {s : State} (h : AddrOk s (nnn.toNat + (s.reg 0x0#4).toNat)) :
    exec (.jpV0 nnn) s =
      .next ((s.reports (oobReport s.instrAddr (nnn.toNat + (s.reg 0x0#4).toNat))).setPc
        ((nnn.toNat + (s.reg 0x0#4).toNat) % 0x1000)) := by
  rw [exec_jpV0, formAddr_ok h]

/-- Settles O14. -/
theorem jumpOffsetAddsVZero : Obligations.JumpOffsetAddsVZero :=
  fun nnn s h => ⟨_, exec_jpV0_ok nnn h, jumpedTo_setPc _ s⟩

/-! ## One call, one return -/

/-- 2NNN on a full stack under `STACK_POLICY = Clamp` (R31). -/
theorem exec_call_clamp (nnn : Addr12) {s : State} (hsp : s.sp.val = 16) (hp : s.params.stackPolicy = .clamp) :
    exec (.call nnn) s = .next (s.report (.stackOverflow s.instrAddr)) := by
  rw [exec_call, push_overflow hsp hp]

/-- 00EE on an empty stack under `STACK_POLICY = Clamp` (R32). -/
theorem exec_ret_clamp {s : State} (hsp : s.sp.val = 0) (hp : s.params.stackPolicy = .clamp) :
    exec .ret s = .next (s.report (.stackUnderflow s.instrAddr)) := by
  rw [exec_ret, pop_underflow hsp hp]

/-- The entry a pop returns is one the stack holds, SP being 16 at most (R29). -/
theorem stack_topEntry (s : State) : s.stack[s.sp.val - 1]? = some s.topEntry := by
  have hlt : s.sp.val - 1 < 16 := by omega
  simp [State.topEntry, hlt]

/-- Settles O11: the push that fits, and the one that overflows. -/
theorem callPushesReturnAddress : Obligations.CallPushesReturnAddress := by
  refine fun nnn s => ⟨fun h => ?_, fun hsp hp => ?_⟩
  · exact ⟨_, exec_call_ok nnn h, setPc_pc_toNat _ (by omega), rfl, Vector.getElem?_set_self h,
      fun k hk => Vector.getElem?_set_ne h hk.symm, keeps_pc_stack s _ _ _⟩
  · exact ⟨_, exec_call_clamp nnn hsp hp, rfl, keeps_reports s [_]⟩

/-- Settles O12: the pop of an entry, and the one that underflows. -/
theorem returnPopsIntoPc : Obligations.ReturnPopsIntoPc := by
  refine fun s => ⟨fun h => ?_, fun hsp hp => ?_⟩
  · refine ⟨_, exec_ret_ok (Nat.ne_of_gt h), ?_, rfl, rfl, keeps_pc_stack s _ _ _⟩
    rw [stack_topEntry, State.setPc_pc, BitVec.ofNat_toNat, BitVec.setWidth_eq]
  · exact ⟨_, exec_ret_clamp hsp hp, rfl, keeps_reports s [_]⟩

/-! ## Skips -/

theorem skipIf_true_jumpedTo {s : State} (h : AddrOk s (s.pc.toNat + 2)) :
    ∃ taken, skipIf true s = .next taken ∧ JumpedTo (s.pc.toNat + 2) s taken :=
  ⟨_, skipIf_true h, jumpedTo_setPc _ s⟩

/-- Of two instructions that skip on a condition and on its negation, the one whose condition holds skips and the other leaves
the state as it is. -/
theorem skips_on_condition {c : Prop} [Decidable c] {yes no : Instr} {s : State} (hyes : exec yes s = skipIf (decide c) s)
    (hno : exec no s = skipIf (!decide c) s) :
    (AddrOk s (s.pc.toNat + 2) →
      ∃ taken, exec (if c then yes else no) s = .next taken ∧ JumpedTo (s.pc.toNat + 2) s taken) ∧
    exec (if c then no else yes) s = .next s := by
  by_cases hc : c
  · rw [decide_eq_true hc] at hyes hno
    rw [if_pos hc, if_pos hc, hyes, hno]
    exact ⟨skipIf_true_jumpedTo, skipIf_false s⟩
  · rw [decide_eq_false hc] at hyes hno
    rw [if_neg hc, if_neg hc, hyes, hno]
    exact ⟨skipIf_true_jumpedTo, skipIf_false s⟩

/-- Settles O15: the condition is VX = kk. -/
theorem immediateSkips : Obligations.ImmediateSkips :=
  fun x kk s => skips_on_condition (exec_seImm s x kk) (exec_sneImm s x kk)

/-- Settles O16: the condition is VX = VY. -/
theorem registerSkips : Obligations.RegisterSkips :=
  fun x y s => skips_on_condition (exec_seReg s x y) (exec_sneReg s x y)

theorem pressed_inRange {s : State} {v : Byte} (h : v.toNat ≤ 0xF) : s.pressed v = s.keyDown v.toNat := if_pos h

theorem pressed_notPressed {s : State} {v : Byte} (h : 0xF < v.toNat) (hp : s.params.keyIndexPolicy = .notPressed) :
    s.pressed v = false := by
  rw [State.pressed, if_neg (Nat.not_le.2 h), hp]

theorem pressed_lowNibble {s : State} {v : Byte} (h : 0xF < v.toNat) (hp : s.params.keyIndexPolicy = .lowNibble) :
    s.pressed v = s.keyDown (v.toNat % 0x10) := by
  rw [State.pressed, if_neg (Nat.not_le.2 h), hp]

/-- Settles O17: the condition is the state of the key VX names, found by its value and the policy. -/
theorem keySkips : Obligations.KeySkips := by
  intro x s down hin hnot hlow
  have hdown : s.pressed (s.reg x) = down := by
    rcases Nat.lt_or_ge 0xF (s.reg x).toNat with h | h
    · cases hp : s.params.keyIndexPolicy with
      | notPressed => rw [pressed_notPressed h hp, hnot h hp]
      | lowNibble => rw [pressed_lowNibble h hp, hlow h hp]
    · rw [pressed_inRange h, hin h]
  refine skips_on_condition ?_ ?_
  · rw [exec_skp, hdown, Bool.decide_eq_true]
  · rw [exec_sknp, hdown, Bool.decide_eq_true]

end Sys2Proof.Machine
end

section
/-! PROOFS. ALU and logic: the loads, the additions, the logic, the shifts and the random byte (R111 to R124). -/

namespace Sys2Proof.Machine

/-! ## What a register write leaves unchanged -/

theorem keeps_setReg (s : State) (x : Reg) (b : Byte) : Keeps [.regs] s (s.setReg x b) := by
  intro p hp
  cases p with
  | regs => simp at hp
  | _ => simp [SamePart]

theorem setReg_frame (s : State) (x : Reg) (b : Byte) :
    (∀ z, z ≠ x → (s.setReg x b).reg z = s.reg z) ∧ Keeps [.regs] s (s.setReg x b) :=
  ⟨fun _ => s.reg_setReg_ne b, keeps_setReg s x b⟩

theorem setResultAndFlag_frame (s : State) (x : Reg) (b : Byte) (f : Bool) :
    (∀ z, z ≠ x → z ≠ 0xF#4 → (s.setResultAndFlag x b f).reg z = s.reg z) ∧ Keeps [.regs] s (s.setResultAndFlag x b f) := by
  refine ⟨fun z hx hF => ?_, (keeps_setReg s x b).trans (keeps_setReg _ vF _)⟩
  rw [State.reg_setResultAndFlag, if_neg hF, if_neg hx]

theorem keeps_takeDraw (s : State) : Keeps [.draws] s s.takeDraw := by
  intro p hp
  cases p with
  | draws => simp at hp
  | _ => simp [SamePart]

/-! ## Loads, 7XKK and logic -/

/-- Settles O19. -/
theorem immediateLoadAndAdd : Obligations.ImmediateLoadAndAdd := by
  refine fun x kk s =>
    ⟨⟨_, exec_ldImm s x kk, s.reg_setReg x kk, keeps_setReg s x kk⟩, ⟨_, exec_addImm s x kk, ?_, setReg_frame s x _⟩⟩
  rw [State.reg_setReg_same]
  exact BitVec.toNat_ofNat _ 8

/-- Settles O20. -/
theorem assignAndLogic : Obligations.AssignAndLogic := by
  refine fun x y s =>
    ⟨⟨_, exec_ldReg s x y, s.reg_setReg x _, keeps_setReg s x _⟩, ⟨_, exec_orReg s x y, fun k => ?_, setReg_frame s x _⟩,
      ⟨_, exec_andReg s x y, fun k => ?_, setReg_frame s x _⟩, ⟨_, exec_xorReg s x y, fun k => ?_, setReg_frame s x _⟩⟩
  · rw [State.reg_setReg_same, BitVec.getLsbD_or]
  · rw [State.reg_setReg_same, BitVec.getLsbD_and]
  · rw [State.reg_setReg_same, BitVec.getLsbD_xor]

/-- Settles O24: the draw is taken before VX is written. -/
theorem randomIsMaskedFreeByte : Obligations.RandomIsMaskedFreeByte := by
  refine fun x kk s => ⟨_, exec_rnd s x kk, fun k => ?_, rfl, fun z => s.takeDraw.reg_setReg_ne _, ?_⟩
  · rw [State.reg_setReg_same, BitVec.getLsbD_and, State.nextRandom]
  · exact ((keeps_takeDraw s).mono (by simp)).trans ((keeps_setReg _ x _).mono (by simp))

/-! ## A result and its flag -/

/-- VF ends as the flag whatever x is (R112). -/
theorem reg_vF_setResultAndFlag (s : State) (x : Reg) (b : Byte) (c : Prop) [Decidable c] :
    ((s.setResultAndFlag x b (decide c)).reg 0xF#4).toNat = if c then 1 else 0 := by
  rw [State.reg_setResultAndFlag, if_pos rfl, flagByte_toNat]
  simp only [decide_eq_true_eq]

theorem reg_setResultAndFlag_result (s : State) {x : Reg} (b : Byte) (f : Bool) (h : x ≠ 0xF#4) :
    (s.setResultAndFlag x b f).reg x = b := by
  rw [State.reg_setResultAndFlag, if_neg h, if_pos rfl]

/-- Settles O21. -/
theorem addSetsCarry : Obligations.AddSetsCarry := by
  refine fun x y s => ⟨_, exec_addReg s x y, reg_vF_setResultAndFlag s x _ _, fun h => ?_, setResultAndFlag_frame s x _ _⟩
  rw [reg_setResultAndFlag_result s _ _ h]
  exact BitVec.toNat_ofNat _ 8

/-- The difference of two bytes is the integer difference modulo 256. -/
theorem sub_toNat_emod (a b : Byte) : ((a - b).toNat : Int) = ((a.toNat : Int) - b.toNat) % 256 := by
  rw [BitVec.toNat_sub]
  omega

/-- Settles O22. -/
theorem subtractSetsNotBorrow : Obligations.SubtractSetsNotBorrow := by
  refine fun x y s =>
    ⟨⟨_, exec_subReg s x y, reg_vF_setResultAndFlag s x _ _, fun h => ?_, setResultAndFlag_frame s x _ _⟩,
      ⟨_, exec_subn s x y, reg_vF_setResultAndFlag s x _ _, fun h => ?_, setResultAndFlag_frame s x _ _⟩⟩
  · rw [reg_setResultAndFlag_result s _ _ h, sub_toNat_emod]
  · rw [reg_setResultAndFlag_result s _ _ h, sub_toNat_emod]

/-! ## Shifts -/

/-- The register `SHIFT_SOURCE` selects (R121, R123). -/
theorem shiftOperand_toNat {s : State} {x y : Reg} {src : Nat} (hvx : s.params.shiftSource = .vx → src = (s.reg x).toNat)
    (hvy : s.params.shiftSource = .vy → src = (s.reg y).toNat) : (s.shiftOperand x y).toNat = src := by
  cases h : s.params.shiftSource with
  | vx => rw [State.shiftOperand, h, hvx h]
  | vy => rw [State.shiftOperand, h, hvy h]

theorem shiftedOutRight_eq (b : Byte) : shiftedOutRight b = decide (b.toNat % 2 = 1) := Nat.testBit_zero b.toNat

theorem shiftedOutLeft_eq (b : Byte) : shiftedOutLeft b = decide (128 ≤ b.toNat) := by
  have hbit : shiftedOutLeft b = decide (b.toNat / 2 ^ 7 % 2 = 1) := Nat.testBit_eq_decide_div_mod_eq
  rw [hbit, decide_eq_decide]
  omega

/-- Settles O23. -/
theorem shiftsSetDroppedBit : Obligations.ShiftsSetDroppedBit := by
  intro x y s src hvx hvy
  obtain rfl := shiftOperand_toNat hvx hvy
  refine ⟨⟨_, exec_shr s x y, ?_, fun h => ?_, setResultAndFlag_frame s x _ _⟩,
    ⟨_, exec_shl s x y, ?_, fun h => ?_, setResultAndFlag_frame s x _ _⟩⟩
  · rw [shiftedOutRight_eq, reg_vF_setResultAndFlag]
    split <;> omega
  · rw [reg_setResultAndFlag_result s _ _ h, BitVec.toNat_ushiftRight, Nat.shiftRight_eq_div_pow, pow_one]
  · rw [shiftedOutLeft_eq, reg_vF_setResultAndFlag]
    split <;> omega
  · rw [reg_setResultAndFlag_result s _ _ h, BitVec.toNat_shiftLeft, Nat.shiftLeft_eq, pow_one]

end Sys2Proof.Machine
end

section
/-! PROOFS. Index register and block transfers: ANNN, FX1E and FX29 (R125 to R127), the stores of FX33 and FX55 (R128, R129) and the
loads of FX65 (R130). -/

namespace Sys2Proof.Machine

/-! ## Frames -/

theorem Keeps.refl (ps : List Part) (s : State) : Keeps ps s s := by
  intro p _
  cases p <;> simp [SamePart]

/-- Two writes, each of one part, leave every other part. -/
theorem Keeps.andThen {p q : Part} {s t u : State} (h : Keeps [p] s t) (h' : Keeps [q] t u) : Keeps [q, p] s u :=
  (h.mono (by simp)).trans (h'.mono (by simp))

/-! ## The index register -/

theorem keeps_setIndex (s : State) (e : Nat) : Keeps [.index] s (s.setIndex e) := by
  intro p hp
  cases p with
  | index => simp at hp
  | _ => simp [SamePart]

theorem setIndex_index_toNat (s : State) {e : Nat} (h : e < 0x10000) : (s.setIndex e).index.toNat = e :=
  (BitVec.toNat_ofNat e 16).trans (Nat.mod_eq_of_lt h)

/-- Settles O25: both values are below 2¹⁶, so I holds them as they are. -/
theorem indexLoads : Obligations.IndexLoads := by
  refine fun s => ⟨fun nnn => ⟨_, exec_ldI s nnn, setIndex_index_toNat s (by omega), keeps_setIndex s _⟩,
    fun x => ⟨_, exec_ldF s x, setIndex_index_toNat s ?_, keeps_setIndex s _⟩⟩
  unfold fontBase
  omega

/-- FX1E where Addr(I + VX) gives an address (R126). -/
theorem exec_addI_ok (x : Reg) {s : State} (h : AddrOk s (s.index.toNat + (s.reg x).toNat)) :
    exec (.addI x) s =
      .next ((s.reports (oobReport s.instrAddr (s.index.toNat + (s.reg x).toNat))).setIndex
        ((s.index.toNat + (s.reg x).toNat) % 0x1000)) := by
  rw [exec_addI, formAddr_ok h]

/-- Settles O26. -/
theorem indexAdd : Obligations.IndexAdd :=
  fun x s h => ⟨_, exec_addI_ok x h, setIndex_index_toNat _ (by omega), rfl,
    (keeps_reports s _).andThen (keeps_setIndex _ _)⟩

/-! ## A block of bytes stored from I on -/

/-- The state after the bytes of `kbs` are stored at Addr(I + k), with the reports of forming the addresses (R60, R73). -/
def State.storeBlock (s : State) (kbs : List (Nat × Byte)) : State :=
  { s.reports (oobReports s.instrAddr s.index.toNat (kbs.map Prod.fst)) with
    mem := blockMem s.params s.index.toNat kbs s.mem }

theorem keeps_mem (s : State) (m : Memory) : Keeps [.memory] s { s with mem := m } := by
  intro p hp
  cases p with
  | memory => simp at hp
  | _ => simp [SamePart, State.reg]

theorem keeps_storeBlock (s : State) (kbs : List (Nat × Byte)) : Keeps [.memory, .events] s (s.storeBlock kbs) :=
  (keeps_reports s _).andThen (keeps_mem _ _)

section Offsets

/- FX33 and FX55 store at the offsets 0, 1, … up to a bound, in order. -/
variable {s : State} {kbs : List (Nat × Byte)} {n : Nat} (hoff : kbs.map Prod.fst = List.range n)
include hoff

theorem offset_lt {kb : Nat × Byte} (h : kb ∈ kbs) : kb.1 < n :=
  List.mem_range.1 (hoff ▸ List.mem_map_of_mem h)

theorem writeBlock_eq_storeBlock (h : ∀ k, k < n → AddrOk s (s.index.toNat + k)) :
    writeBlock s s.index.toNat kbs s = .next (s.storeBlock kbs) :=
  writeBlock_ok fun kb hkb => h kb.1 (offset_lt hoff hkb)

theorem storeBlock_readByte (hn : n ≤ 0x1000) {k : Nat} {b : Byte} (hm : (k, b) ∈ kbs) :
    (s.storeBlock kbs).readByte ((s.index.toNat + k) % 0x1000) = b :=
  read_blockMem_self hm (hoff ▸ List.nodup_range) fun _ hkb => Nat.lt_of_lt_of_le (offset_lt hoff hkb) hn

theorem storeBlock_readByte_other {a : Nat} (ha : ∀ k, k < n → a ≠ (s.index.toNat + k) % 0x1000) :
    (s.storeBlock kbs).readByte a = s.readByte a :=
  read_blockMem_other fun kb hkb => ha kb.1 (offset_lt hoff hkb)

theorem storeBlock_diag : (s.storeBlock kbs).diag = s.diag ++ oobReports s.instrAddr s.index.toNat (List.range n) :=
  hoff ▸ rfl

end Offsets

/-! ## FX33 and FX55 -/

theorem bcdDigits_offsets (v : Byte) : (bcdDigits v).map Prod.fst = List.range 3 := rfl

/-- What FX33 leaves where it stores the digit `d` (R128). -/
theorem storeBlock_bcdDigits_toNat (s : State) {v : Byte} {k d : Nat} (hm : (k, trunc8 d) ∈ bcdDigits v) (hd : d < 256) :
    ((s.storeBlock (bcdDigits v)).readByte ((s.index.toNat + k) % 0x1000)).toNat = d := by
  rw [storeBlock_readByte (bcdDigits_offsets v) (by decide) hm, trunc8_toNat hd]

/-- Settles O27: the block of the three digits. -/
theorem bcdStoresThreeDigits : Obligations.BcdStoresThreeDigits := by
  intro x s h
  have hoff := bcdDigits_offsets (s.reg x)
  refine ⟨_, (exec_ldB s x).trans (writeBlock_eq_storeBlock hoff h), ?_, ?_, ?_,
    fun _ => storeBlock_readByte_other hoff, storeBlock_diag hoff, keeps_storeBlock s _⟩
  · exact storeBlock_bcdDigits_toNat s (k := 0) (by simp [bcdDigits]) (by omega)
  · exact storeBlock_bcdDigits_toNat s (by simp [bcdDigits]) (by omega)
  · exact storeBlock_bcdDigits_toNat s (by simp [bcdDigits]) (by omega)

/-- Settles O28: the block of the registers V0 to VX. -/
theorem registersStored : Obligations.RegistersStored := by
  intro x s h
  have hoff := regBlock_offsets s x
  have hexec : exec (.ldMemVx x) s = .next (s.storeBlock (s.regBlock x)) :=
    (exec_ldMemVx s x).trans (writeBlock_eq_storeBlock hoff fun k hk => h k (Nat.le_of_lt_succ hk))
  exact ⟨_, hexec, fun _ => exec_ldMemVx_readByte hexec,
    fun _ ha => storeBlock_readByte_other hoff fun k hk => ha k (Nat.le_of_lt_succ hk),
    storeBlock_diag hoff, keeps_storeBlock s _⟩

/-! ## FX65 -/

theorem keeps_setRegsFrom (bs : List Byte) (s : State) (k : Nat) : Keeps [.regs] s (s.setRegsFrom k bs) := by
  induction bs generalizing s k with
  | nil => exact .refl _ _
  | cons b bs ih => exact (keeps_setReg s _ b).trans (ih _ _)

/-- The bytes at Addr(I + k) for the registers V0 to VX (R130). -/
def State.loadedBytes (s : State) (x : Reg) : List Byte :=
  (List.range (x.toNat + 1)).map fun k => s.readByte ((s.index.toNat + k) % 0x1000)

theorem loadedBytes_length (s : State) (x : Reg) : (s.loadedBytes x).length = x.toNat + 1 := by simp [State.loadedBytes]

theorem loadedBytes_getElem? (s : State) {x z : Reg} (h : z.toNat ≤ x.toNat) :
    (s.loadedBytes x)[z.toNat]? = some (s.readByte ((s.index.toNat + z.toNat) % 0x1000)) := by
  rw [State.loadedBytes, List.getElem?_map, List.getElem?_range (Nat.lt_succ_of_le h), Option.map_some]

/-- FX65 where every address is formed (R130). -/
theorem exec_ldVxMem_ok (x : Reg) {s : State} (h : ∀ k, k ≤ x.toNat → AddrOk s (s.index.toNat + k)) :
    exec (.ldVxMem x) s =
      .next ((s.reports (oobReports s.instrAddr s.index.toNat (List.range (x.toNat + 1)))).setRegsFrom 0 (s.loadedBytes x)) := by
  rw [exec_ldVxMem, readBlock_ok fun k hk => h k (Nat.le_of_lt_succ (List.mem_range.1 hk)), State.loadedBytes]

/-- The registers up to VX hold the bytes loaded; the others are kept. -/
theorem reg_setRegsFrom_loadedBytes (s u : State) (x z : Reg) :
    (u.setRegsFrom 0 (s.loadedBytes x)).reg z =
      if z.toNat ≤ x.toNat then s.readByte ((s.index.toNat + z.toNat) % 0x1000) else u.reg z := by
  rw [State.reg_setRegsFrom _ _ _ (by rw [loadedBytes_length]; omega), loadedBytes_length, Nat.sub_zero]
  by_cases hz : z.toNat ≤ x.toNat
  · rw [if_pos (by omega), if_pos hz, loadedBytes_getElem? s hz, Option.getD_some]
  · rw [if_neg (by omega), if_neg hz]

/-- Settles O29: the block read, put into the registers from V0 on. -/
theorem registersLoaded : Obligations.RegistersLoaded :=
  fun x s h => ⟨_, exec_ldVxMem_ok x h, reg_setRegsFrom_loadedBytes s _ x, keeps_setRegsFrom _ _ 0 .events (by simp),
    (keeps_reports s _).andThen (keeps_setRegsFrom _ _ 0)⟩

end Sys2Proof.Machine
end

section
/-! PROOFS. Display: 00E0 (R132), one draw of DXYN, two draws in a row, and the corner-case sentence of R133 refuted. -/

namespace Sys2Proof.Machine

/-! ## 00E0 -/

theorem keeps_setFb (s : State) (f : Frame) : Keeps [.screen] s (s.setFb f) := by
  intro p hp
  cases p with
  | screen => simp at hp
  | _ => simp [SamePart]

/-- Settles O31. -/
theorem clearBlanksScreen : Obligations.ClearBlanksScreen :=
  fun s => ⟨_, exec_cls s, Frame.get_clear, keeps_setFb s _⟩

/-! ## The state a draw leaves -/

/-- The rows of the sprite: the bytes at Addr(I + k) for k below n (R133). -/
def State.spriteRows (s : State) (n : Nibble) : List Byte :=
  (List.range n.toNat).map fun k => s.readByte ((s.index.toNat + k) % 0x1000)

/-- The display buffer with the sprite drawn into it, and whether a pixel was erased (R133). -/
def State.blit (s : State) (x y : Reg) (n : Nibble) : Frame × Bool :=
  drawRows (s.originCol x) (s.originRow y) (s.spriteRows n) s.fb false

/-- The state after DXYN where every address of the sprite is formed: its reports, the buffer, then VF (R133). -/
def State.drawn (s : State) (x y : Reg) (n : Nibble) : State :=
  ((s.reports (oobReports s.instrAddr s.index.toNat (List.range n.toNat))).setFb (s.blit x y n).1).setReg vF
    (flagByte (s.blit x y n).2)

theorem exec_drw_ok (x y : Reg) {n : Nibble} {s : State} (h : ∀ k, k < n.toNat → AddrOk s (s.index.toNat + k)) :
    exec (.drw x y n) s = .next (s.drawn x y n) := by
  rw [exec_drw, readBlock_ok fun k hk => h k (List.mem_range.1 hk)]
  rfl

theorem flagByte_eq_one (f : Bool) : (flagByte f).toNat = 1 ↔ f = true := by cases f <;> decide

theorem flagByte_one_or_zero (f : Bool) : (flagByte f).toNat = 1 ∨ (flagByte f).toNat = 0 := by cases f <;> decide

section Drawn

variable (s : State) (x y : Reg) (n : Nibble)

theorem drawn_reg_vF : (s.drawn x y n).reg 0xF#4 = flagByte (s.blit x y n).2 := State.reg_setReg_same _ vF _

theorem drawn_reg_ne {z : Reg} (h : z ≠ 0xF#4) : (s.drawn x y n).reg z = s.reg z := State.reg_setReg_ne _ (x := vF) _ h

theorem keeps_drawn : Keeps [.screen, .regs, .events] s (s.drawn x y n) :=
  (((keeps_reports s _).andThen (keeps_setFb _ _)).mono (by simp)).trans ((keeps_setReg _ vF _).mono (by simp))

/-! ## The draw loops and the sprite as a picture -/

/-- What the draw loops light are the sprite's pixels that are on the screen (R133). -/
theorem rowsBit_spriteRows (r c : Nat) :
    rowsBit (s.originCol x) (s.originRow y) (s.spriteRows n) r c = true ↔
      r < 32 ∧ c < 64 ∧ spriteBit s x y n r c = true := by
  have hlen : (s.spriteRows n).length = n.toNat := by simp [State.spriteRows]
  simp only [rowsBit, spriteBit, hlen, Bool.and_eq_true, decide_eq_true_eq]
  by_cases hrow : s.originRow y ≤ r ∧ r < s.originRow y + n.toNat
  · have hbyte : (s.spriteRows n)[r - s.originRow y]? =
        some (s.readByte ((s.index.toNat + (r - s.originRow y)) % 0x1000)) := by
      rw [State.spriteRows, List.getElem?_map, List.getElem?_range (by omega), Option.map_some]
    rw [hbyte, Option.getD_some]
    tauto
  · tauto

/-- DXYN inverts the on-screen pixels of the sprite (R133). -/
theorem get_drawn_fb {r c : Nat} (hr : r < 32) (hc : c < 64) :
    Frame.get (s.drawn x y n).fb r c = (Frame.get s.fb r c ^^ spriteBit s x y n r c) := by
  have hbit : rowsBit (s.originCol x) (s.originRow y) (s.spriteRows n) r c = spriteBit s x y n r c :=
    Bool.eq_iff_iff.2 (by simp [rowsBit_spriteRows, hr, hc])
  rw [← hbit]
  exact (drawRows_spec _ _ _ _ _).1 r c

/-- DXYN erases a pixel iff one the sprite lights was 1 (R133). -/
theorem blit_collision :
    (s.blit x y n).2 = true ↔
      ∃ r c, r < 32 ∧ c < 64 ∧ spriteBit s x y n r c = true ∧ Frame.get s.fb r c = true := by
  rw [State.blit, (drawRows_spec _ _ _ _ _).2]
  simp only [rowsBit_spriteRows, Bool.false_eq_true, false_or, and_assoc]

theorem drawn_vF_eq_one :
    ((s.drawn x y n).reg 0xF#4).toNat = 1 ↔
      ∃ r c, r < 32 ∧ c < 64 ∧ spriteBit s x y n r c = true ∧ Frame.get s.fb r c = true := by
  rw [drawn_reg_vF, flagByte_eq_one, blit_collision]

theorem drawn_vF_one_or_zero : ((s.drawn x y n).reg 0xF#4).toNat = 1 ∨ ((s.drawn x y n).reg 0xF#4).toNat = 0 := by
  rw [drawn_reg_vF]
  exact flagByte_one_or_zero _

end Drawn

/-- Settles O32. -/
theorem drawInvertsSpritePixels : Obligations.DrawInvertsSpritePixels :=
  fun x y n s h => ⟨_, exec_drw_ok x y h, fun _ _ => get_drawn_fb s x y n, drawn_vF_one_or_zero s x y n,
    drawn_vF_eq_one s x y n, fun _ => drawn_reg_ne s x y n, rfl, keeps_drawn s x y n⟩

/-! ## A second draw -/

/-- A draw writes no register but VF, so the origin stays where neither coordinate is VF. -/
theorem drawn_origin (s : State) {x y : Reg} (n : Nibble) (hx : x ≠ 0xF#4) (hy : y ≠ 0xF#4) :
    (s.drawn x y n).originCol x = s.originCol x ∧ (s.drawn x y n).originRow y = s.originRow y := by
  simp only [State.originCol, State.originRow, drawn_reg_ne s x y n hx, drawn_reg_ne s x y n hy, and_self]

/-- A draw writes neither I nor memory, so the sprite stays where the origin does. -/
theorem spriteBit_drawn {s : State} {x y : Reg} {n : Nibble} (hcol : (s.drawn x y n).originCol x = s.originCol x)
    (hrow : (s.drawn x y n).originRow y = s.originRow y) (r c : Nat) :
    spriteBit (s.drawn x y n) x y n r c = spriteBit s x y n r c := by
  rw [spriteBit, spriteBit, hcol, hrow]
  rfl

/-- Settles O33: the second draw inverts the pixels the first inverted, and erases those the first lit. -/
theorem drawTwiceRestoresScreen : Obligations.DrawTwiceRestoresScreen := by
  refine fun x y n s h => ⟨_, exec_drw_ok x y h, drawn_origin s n, fun hcol hrow => ⟨_, exec_drw_ok x y h, ?_, ?_⟩⟩
  · refine Frame.ext_get fun r hr c hc => ?_
    rw [get_drawn_fb _ x y n hr hc, get_drawn_fb s x y n hr hc, spriteBit_drawn hcol hrow, Bool.xor_assoc, Bool.xor_self,
      Bool.xor_false]
  · rw [drawn_vF_eq_one]
    refine exists_congr fun r => exists_congr fun c => and_congr_right fun hr => and_congr_right fun hc => ?_
    rw [spriteBit_drawn hcol hrow]
    refine and_congr_right fun hbit => ?_
    rw [get_drawn_fb s x y n hr hc, hbit, Bool.xor_true, Bool.not_eq_true']

/-! ## The corner-case sentence of R133 -/

/-- The state after ANNN from reset: I is at the top row of glyph 0. -/
def indexAtGlyph : State := State.reset.setIndex 0x050

/-- The state after one DXYN more: the row stands on a screen otherwise clear. -/
def glyphRowShown : State := indexAtGlyph.drawn 0x0#4 0x1#4 0x1#4

theorem glyphRowShown_reached :
    exec (.ldI 0x050#12) State.reset = .next indexAtGlyph ∧
    exec (.drw 0x0#4 0x1#4 0x1#4) indexAtGlyph = .next glyphRowShown :=
  ⟨exec_ldI _ _, exec_drw_ok _ _ fun k (hk : k < 1) => .inl (show 0x050 + k ≤ 0xFFF by omega)⟩

theorem spriteBit_glyphRowShown (r c : Nat) :
    spriteBit glyphRowShown 0x0#4 0x1#4 0x1#4 r c = spriteBit indexAtGlyph 0x0#4 0x1#4 0x1#4 r c := by
  obtain ⟨hcol, hrow⟩ := drawn_origin indexAtGlyph 0x1#4 (x := 0x0#4) (y := 0x1#4) (by decide) (by decide)
  exact spriteBit_drawn hcol hrow r c

/-- Where the sprite is drawn again, the screen shows it already. -/
theorem get_glyphRowShown_fb {r c : Nat} (hr : r < 32) (hc : c < 64) :
    Frame.get glyphRowShown.fb r c = spriteBit glyphRowShown 0x0#4 0x1#4 0x1#4 r c := by
  have hblank : Frame.get indexAtGlyph.fb r c = false := Frame.get_clear r c
  rw [spriteBit_glyphRowShown, glyphRowShown, get_drawn_fb _ _ _ _ hr hc, hblank, Bool.false_xor]

/-- Refutes O34: the row shown is drawn twice more. The first of the two draws erases it, so the second finds its pixels 0 and
erases none, though they are on the screen (log 24). -/
theorem not_secondDrawCollidesIffOnScreen : ¬ Obligations.SecondDrawCollidesIffOnScreen := by
  intro hclaim
  have hne0 : (0x0#4 : Reg) ≠ 0xF#4 := by decide
  have hne1 : (0x1#4 : Reg) ≠ 0xF#4 := by decide
  have haddr : ∀ k, k < 1 → AddrOk glyphRowShown (0x050 + k) := fun k hk => .inl (by omega)
  obtain ⟨t, ht, horigin, hsecond⟩ := drawTwiceRestoresScreen 0x0#4 0x1#4 0x1#4 glyphRowShown haddr
  obtain ⟨hcol, hrow⟩ := horigin hne0 hne1
  obtain ⟨u, hu, -, hVF⟩ := hsecond hcol hrow
  have hlit : spriteBit glyphRowShown 0x0#4 0x1#4 0x1#4 0 0 = true := by
    rw [spriteBit_glyphRowShown]
    decide
  have hcollides := (hclaim _ _ _ _ t u hne0 hne1 ht hu).2 ⟨0, 0, by decide, by decide, hlit⟩
  obtain ⟨r, c, hr, hc, hbit, hclear⟩ := hVF.1 hcollides
  rw [get_glyphRowShown_fb hr hc, hbit] at hclear
  cases hclear

end Sys2Proof.Machine
end

section
/-! PROOFS. Input and timers: FX0A (R139), FX07, FX15 and FX18 (R141 to R143). -/

namespace Sys2Proof.Machine

/-! ## FX0A -/

theorem exec_ldVxK_of_pressed {s : State} {k : Nat} (x : Reg) (h : s.lowestKey = some k) :
    exec (.ldVxK x) s = .next (s.setReg x (trunc8 k)) := by
  rw [exec_ldVxK, h]

theorem exec_ldVxK_of_none {s : State} (x : Reg) (h : s.lowestKey = none) :
    exec (.ldVxK x) s = .next (s.setRun (.waitKey x)) := by
  rw [exec_ldVxK, h]

theorem keeps_setRun (s : State) (r : Run) : Keeps [.run] s (s.setRun r) := by
  intro p hp
  cases p with
  | run => simp at hp
  | _ => simp [SamePart]

/-- Settles O35: the two answers of FX0A, one for each value of the lowest pressed key. -/
theorem keyWaitStartsOrCompletes : Obligations.KeyWaitStartsOrCompletes := by
  refine fun x s => ⟨fun k hk hlow => ?_, fun hnone => ?_⟩
  · have hlt : k < 16 := keyDown_lt hk
    refine ⟨_, exec_ldVxK_of_pressed x (lowestKey_eq hk hlow), ?_, setReg_frame s x _⟩
    rw [State.reg_setReg_same, trunc8_toNat (by omega)]
  · exact ⟨_, exec_ldVxK_of_none x (lowestKey_none.2 fun k _ => hnone k), State.setRun_run s _, keeps_setRun s _⟩

/-! ## The timers -/

theorem keeps_setDt (s : State) (b : Byte) : Keeps [.delay] s (s.setDt b) := by
  intro p hp
  cases p with
  | delay => simp at hp
  | _ => simp [SamePart]

theorem keeps_setSt (s : State) (b : Byte) : Keeps [.sound] s (s.setSt b) := by
  intro p hp
  cases p with
  | sound => simp at hp
  | _ => simp [SamePart]

/-- Settles O37: each of the three is one write of one part. -/
theorem timerInstructions : Obligations.TimerInstructions :=
  fun x s =>
    ⟨⟨_, exec_ldVxDt s x, s.reg_setReg x _, keeps_setReg s x _⟩, ⟨_, exec_ldDtVx s x, s.setDt_dt _, keeps_setDt s _⟩,
      ⟨_, exec_ldStVx s x, s.setSt_st _, keeps_setSt s _⟩⟩

end Sys2Proof.Machine
end

section
/-! PROOFS. Conditions and the Scheduler: the addresses that fault under `OOB_POLICY = Fault` (R151, R152), the default policies
under which nothing stops the machine (R144), the stopped Scheduler, the frame tick and the poll (R159, R161 to R165). -/

namespace Sys2Proof.Machine

/-! ## The fetch and the advance at the top of memory -/

/-- An instruction slot over the two addresses it forms, Addr(PC + 1) and Addr(PC + 2) (R58, R95). -/
theorem stepInstr_eq (s : State) :
    stepInstr s s.openSlot =
      formAddrAt s.pc.toNat s (s.pc.toNat + 1) s.openSlot fun a s1 =>
        formAddrAt s.pc.toNat s (s.pc.toNat + 2) s1 fun p s2 =>
          recordStart s
            (execute (decode (wordOfBytes (s1.readByte s.pc.toNat) (s1.readByte a))) s.pc.toNat (s2.setPc p)) := rfl

/-- The fetch forms Addr(PC + 1), which is out of range at PC = 0xFFF (R58). -/
theorem stepInstr_fetch_fault {s : State} (hp : s.params.oobPolicy = .fault) (h : 0xFFF < s.pc.toNat + 1) :
    stepInstr s s.openSlot = .fault (.outOfBoundsAddress (s.pc.toNat + 1) s.pc.toNat s) := by
  rw [stepInstr_eq, formAddrAt_fault (s := s.openSlot) h hp]

/-- The advance forms Addr(PC + 2), which is out of range at PC = 0xFFE, where the fetch is in range (R95). -/
theorem stepInstr_advance_fault {s : State} (hp : s.params.oobPolicy = .fault) (hfetch : s.pc.toNat + 1 ≤ 0xFFF)
    (h : 0xFFF < s.pc.toNat + 2) :
    stepInstr s s.openSlot = .fault (.outOfBoundsAddress (s.pc.toNat + 2) s.pc.toNat s) := by
  rw [stepInstr_eq, formAddrAt_ok (.inl hfetch), formAddrAt_fault (s := s.openSlot.reports _) h hp]

/-- At 0xFFE the advance faults and at 0xFFF the fetch, both at Addr(0x1000) (V3, V4). -/
theorem slot_topOfMemory_fault {s : State} (hr : s.run = .running) (hp : s.params.oobPolicy = .fault)
    (hlow : 0xFFE ≤ s.pc.toNat) (hhigh : s.pc.toNat ≤ 0xFFF) :
    slot s = .fault (.outOfBoundsAddress 0x1000 s.pc.toNat s) := by
  rw [slot_running hr]
  rcases Nat.eq_or_lt_of_le hlow with htop | htop
  · rw [stepInstr_advance_fault hp (by omega) (by omega), ← htop]
  · rw [stepInstr_fetch_fault hp (by omega), Nat.le_antisymm hhigh htop]

/-- Settles O40: the slot's fault, from the state at its start. -/
theorem topOfMemoryFaults : Obligations.TopOfMemoryFaults := by
  intro s hat hr hp hlow hhigh
  rw [step_atSlot hat]
  exact slot_topOfMemory_fault (s := s.slotStart) hr hp hlow hhigh

/-! ## The first address of a block out of range -/

theorem formAddr_fault {start s : State} {e : Nat} {k : Nat → State → Result} (h : 0xFFF < e)
    (hp : s.params.oobPolicy = .fault) : formAddr start e s k = .fault (.outOfBoundsAddress e start.instrAddr start) :=
  formAddrAt_fault h hp

/-- The first of the offsets `ks` whose address from `base` on is above 0xFFF (R60, R73). -/
def firstOutOfRange (base : Nat) (ks : List Nat) : Option Nat := ks.find? fun k => decide (0xFFF < base + k)

/-- A first offset out of range is the head of the list, or the head is in range and it is the first of the tail. -/
theorem firstOutOfRange_cons {base j k : Nat} {ks : List Nat} (h : firstOutOfRange base (j :: ks) = some k) :
    (0xFFF < base + j ∧ j = k) ∨ (base + j ≤ 0xFFF ∧ firstOutOfRange base ks = some k) := by
  unfold firstOutOfRange at h
  by_cases hj : 0xFFF < base + j
  · exact .inl ⟨hj, by simpa [hj] using h⟩
  · exact .inr ⟨by omega, by simpa [firstOutOfRange, hj] using h⟩

/-- A block of `n` addresses that starts in range and goes on above 0xFFF leaves the range at 0x1000. -/
theorem firstOutOfRange_range {base n : Nat} (hbase : base ≤ 0xFFF) (hn : 0x1000 < base + n) :
    firstOutOfRange base (List.range n) = some (0x1000 - base) := by
  have hout : 0xFFF < base + (0x1000 - base) := by omega
  have hin : ∀ j < 0x1000 - base, base + j ≤ 0xFFF := by omega
  exact List.find?_range_eq_some.2 ⟨decide_eq_true hout, List.mem_range.2 (by omega), fun j hj => by simpa using hin j hj⟩

theorem readBlock_fault {start : State} {base k : Nat} {ks : List Nat} {s : State} {rest : List Byte → State → Result}
    (hp : s.params.oobPolicy = .fault) (hk : firstOutOfRange base ks = some k) :
    readBlock start base ks s rest = .fault (.outOfBoundsAddress (base + k) start.instrAddr start) := by
  induction ks generalizing s rest with
  | nil => cases hk
  | cons j ks ih =>
    rw [readBlock]
    rcases firstOutOfRange_cons hk with ⟨hj, rfl⟩ | ⟨hj, hks⟩
    · exact formAddr_fault hj hp
    · rw [formAddr_ok (.inl hj)]
      exact ih hp hks

theorem writeBlock_fault {start : State} {base k : Nat} {kbs : List (Nat × Byte)} {s : State}
    (hp : s.params.oobPolicy = .fault) (hk : firstOutOfRange base (kbs.map Prod.fst) = some k) :
    writeBlock start base kbs s = .fault (.outOfBoundsAddress (base + k) start.instrAddr start) := by
  induction kbs generalizing s with
  | nil => cases hk
  | cons jb kbs ih =>
    obtain ⟨j, b⟩ := jb
    rw [writeBlock]
    rcases firstOutOfRange_cons hk with ⟨hj, rfl⟩ | ⟨hj, hks⟩
    · exact formAddr_fault hj hp
    · rw [formAddr_ok (.inl hj)]
      exact ih hp hks

/-- A block read of `n` bytes that leaves the range faults at 0x1000 (R152). -/
theorem readBlock_range_fault {start s : State} {base n : Nat} {rest : List Byte → State → Result}
    (hp : s.params.oobPolicy = .fault) (hbase : base ≤ 0xFFF) (hn : 0x1000 < base + n) :
    readBlock start base (List.range n) s rest = .fault (.outOfBoundsAddress 0x1000 start.instrAddr start) := by
  rw [readBlock_fault hp (firstOutOfRange_range hbase hn), Nat.add_sub_cancel' (by omega)]

/-- A block write of `n` bytes that leaves the range faults at 0x1000, with none of its stores kept (R152). -/
theorem writeBlock_range_fault {start s : State} {base n : Nat} {kbs : List (Nat × Byte)}
    (hoff : kbs.map Prod.fst = List.range n) (hp : s.params.oobPolicy = .fault) (hbase : base ≤ 0xFFF)
    (hn : 0x1000 < base + n) :
    writeBlock start base kbs s = .fault (.outOfBoundsAddress 0x1000 start.instrAddr start) := by
  rw [writeBlock_fault hp (hoff ▸ firstOutOfRange_range hbase hn), Nat.add_sub_cancel' (by omega)]

/-! ## Skips that are taken out of range -/

theorem skipIf_true_fault {s : State} (hp : s.params.oobPolicy = .fault) (h : 0xFFF < s.pc.toNat + 2) :
    skipIf true s = .fault (.outOfBoundsAddress (s.pc.toNat + 2) s.instrAddr s) := by
  rw [skipIf, if_pos rfl, skip, formAddr_fault h hp]

/-- Of two instructions that skip on a condition and on its negation, the one whose condition holds takes the skip. -/
theorem exec_skip_taken {c : Prop} [Decidable c] {yes no : Instr} {s : State} (hyes : exec yes s = skipIf (decide c) s)
    (hno : exec no s = skipIf (!decide c) s) : exec (if c then yes else no) s = skipIf true s := by
  by_cases hc : c
  · rw [if_pos hc, hyes, decide_eq_true hc]
  · rw [if_neg hc, hno, decide_eq_false hc]
    rfl

theorem exec_keySkip_taken (x : Reg) (s : State) :
    exec (if s.pressed (s.reg x) then .skp x else .sknp x) s = skipIf true s :=
  exec_skip_taken (by rw [exec_skp, Bool.decide_eq_true]) (by rw [exec_sknp, Bool.decide_eq_true])

/-- Settles O41: one address, the address of a skip, or the address at which a block leaves the range. -/
theorem outOfBoundsFaults : Obligations.OutOfBoundsFaults := by
  intro s hp
  refine ⟨fun nnn h => ?_, fun x h => ?_, fun x y kk h => ?_, fun x h hI => ?_, fun x h hI => ⟨?_, ?_⟩,
    fun x y n h hI => readBlock_range_fault hp hI h⟩
  · rw [exec_jpV0, formAddr_fault h hp]
  · rw [exec_addI, formAddr_fault h hp]
  · rw [exec_skip_taken (exec_seImm s x kk) (exec_sneImm s x kk), exec_skip_taken (exec_seReg s x y) (exec_sneReg s x y),
      exec_keySkip_taken]
    exact ⟨skipIf_true_fault hp h, skipIf_true_fault hp h, skipIf_true_fault hp h⟩
  · exact writeBlock_range_fault (bcdDigits_offsets (s.reg x)) hp hI (by omega)
  · exact writeBlock_range_fault (regBlock_offsets s x) hp hI (by omega)
  · exact readBlock_range_fault hp hI (by omega)

/-! ## The parameters are kept -/

theorem slotEffect_params {s t : State} (h : SlotEffect s t) : t.params = s.params := by
  cases h with
  | instr i t _ _ ht => exact (exec_frame ht).params
  | unknown | waits | waitEnds => rfl

/-- No kind of step writes the parameters (log 1). -/
theorem step_params {s t : State} (h : step s = .next t) : t.params = s.params := by
  cases step_effect h with
  | slot t _ ht => exact slotEffect_params (s := s.slotStart) ht
  | poll => rw [poll_eq]; rfl
  | stopped | reset | loadRejected | load | tick | tickHeldBack => rfl

/-! ## The default policies -/

theorem skipIf_wrap {s : State} (hw : s.params.oobPolicy = .wrap) (c : Bool) : ∃ t, skipIf c s = .next t := by
  cases c with
  | false => exact ⟨_, skipIf_false s⟩
  | true => exact ⟨_, skipIf_true (.inr hw)⟩

/-- Under Wrap the fetch and the advance form their addresses at every PC. -/
theorem stepInstr_wrap {s : State} (hw : s.params.oobPolicy = .wrap) :
    stepInstr s s.openSlot = recordStart s (execute (decode s.wordAtPc) s.pc.toNat s.executing) := by
  rw [stepInstr_eq, formAddrAt_ok (s := s.openSlot) (.inr hw), formAddrAt_ok (s := s.openSlot.reports _) (.inr hw)]
  rfl

theorem exec_call_next {s : State} (hc : s.params.stackPolicy = .clamp) (nnn : Addr12) :
    ∃ t, exec (.call nnn) s = .next t := by
  by_cases h : s.sp.val < 16
  · exact ⟨_, exec_call_ok nnn h⟩
  · exact ⟨_, exec_call_clamp nnn (by omega) hc⟩

theorem exec_ret_next {s : State} (hc : s.params.stackPolicy = .clamp) : ∃ t, exec .ret s = .next t := by
  by_cases h : s.sp.val = 0
  · exact ⟨_, exec_ret_clamp h hc⟩
  · exact ⟨_, exec_ret_ok h⟩

/-- Under Wrap and Clamp every address is formed and every push and pop goes on, so no instruction faults (R56, R31, R32). -/
theorem exec_next {s : State} (hw : s.params.oobPolicy = .wrap) (hc : s.params.stackPolicy = .clamp) (i : Instr) :
    ∃ t, exec i s = .next t := by
  have hok (e : Nat) : AddrOk s e := .inr hw
  cases i with
  | cls | jp | ldImm | addImm | ldReg | orReg | andReg | xorReg | addReg | subReg | shr | subn | shl | ldI | rnd | ldVxDt
  | ldDtVx | ldStVx | ldF => exact ⟨_, rfl⟩
  | seImm | sneImm | seReg | sneReg | skp | sknp => exact skipIf_wrap hw _
  | call nnn => exact exec_call_next hc nnn
  | ret => exact exec_ret_next hc
  | jpV0 nnn => exact ⟨_, exec_jpV0_ok nnn (hok _)⟩
  | addI x => exact ⟨_, exec_addI_ok x (hok _)⟩
  | ldB | ldMemVx => exact ⟨_, writeBlock_ok fun _ _ => hok _⟩
  | drw x y => exact ⟨_, exec_drw_ok x y fun _ _ => hok _⟩
  | ldVxMem x => exact ⟨_, exec_ldVxMem_ok x fun _ _ => hok _⟩
  | ldVxK x =>
    cases h : s.lowestKey with
    | some k => exact ⟨_, exec_ldVxK_of_pressed x h⟩
    | none => exact ⟨_, exec_ldVxK_of_none x h⟩

/-- Under Wrap and Clamp no slot faults, be it of an instruction, of an unrecognized word or a wait slot (R93). -/
theorem slot_next {s : State} (hw : s.params.oobPolicy = .wrap) (hc : s.params.stackPolicy = .clamp) :
    ∃ t, slot s = .next t := by
  cases hr : s.run with
  | waitKey x => exact ⟨_, slot_waiting hr⟩
  | running =>
    rw [slot_running hr, stepInstr_wrap hw]
    cases decode s.wordAtPc with
    | unknown w => exact ⟨_, rfl⟩
    | instr i =>
      obtain ⟨t, ht⟩ := exec_next (s := s.executing) hw hc i
      exact ⟨t, recordStart_next.2 ht⟩

theorem load_next_of_open {s : State} (image : List Byte) (h : s.loadOpen = true) : ∃ t, load image s = .next t := by
  unfold load
  rw [if_pos h]
  split
  · exact ⟨_, rfl⟩
  · split
    · exact ⟨_, rfl⟩
    · exact ⟨_, rfl⟩

theorem load_refused_of_closed {s : State} (image : List Byte) (h : s.loadOpen = false) :
    load image s = .refused .loadNotAdmitted := by
  simp [load, h]

/-- A step that is no late load answers a next state (R144, R175). -/
theorem step_next_or_lateLoad {s : State} (hw : s.params.oobPolicy = .wrap) (hc : s.params.stackPolicy = .clamp) :
    (∃ t, step s = .next t) ∨ (s.loadOpen = false ∧ (∃ image rest, s.script = .load image :: rest) ∧
      step s = .refused .loadNotAdmitted) := by
  rcases step_cases s with ⟨-, he⟩ | ⟨-, -, he⟩ | ⟨act, rest, -, hs, he⟩
  · exact .inl ⟨s, he⟩
  · rw [he]
    exact .inl (slot_next hw hc)
  · rw [he, slotStart_eq hs]
    cases act with
    | reset | poll | frameTick => exact .inl ⟨_, rfl⟩
    | slot => exact .inl (slot_next (s := s.slotStart) hw hc)
    | load image =>
      cases hl : s.loadOpen with
      | true => exact .inl (load_next_of_open (s := s.slotStart) image hl)
      | false => exact .inr ⟨rfl, ⟨image, rest, hs⟩, load_refused_of_closed (s := s.slotStart) image hl⟩

/-- Settles O56: no step but a late load stops, and no step writes the parameters. -/
theorem defaultPoliciesNeverStop : Obligations.DefaultPoliciesNeverStop :=
  fun _ hw hc => (step_next_or_lateLoad hw hc).imp_left fun ⟨t, ht⟩ => ⟨t, ht, step_params ht⟩

/-! ## The Scheduler -/

/-- Settles O43, by induction on the number of steps. -/
theorem stoppedStaysAsItIs : Obligations.StoppedStaysAsItIs := by
  intro s k h
  have hstep : core.step s = .next s := step_stopped h
  induction k with
  | zero => rfl
  | succ k ih => simpa only [Host.Core.run, hstep] using ih

theorem step_frameTick {s : State} {rest : List HostAct} (hst : s.stopped = false) (hs : s.script = .frameTick :: rest) :
    step s = .next (frameTickAct s.slotStart) := by
  rw [step_act hst hs, slotStart_eq hs]
  rfl

theorem keeps_frameTick (s : State) : Keeps [.delay, .sound, .display, .sched] s s.slotStart.frameTick := by
  intro p hp
  cases p with
  | delay | sound | display | sched => simp at hp
  | _ => simp [SamePart]

/-- Settles O44: the tick that occurs and the tick that is held back. -/
theorem frameTickDecaysTimers : Obligations.FrameTickDecaysTimers := by
  intro s rest hst hs
  rw [step_frameTick hst hs, frameTickAct, State.slotStart_frozen]
  refine ⟨fun hgo => ?_, fun hwait hfreeze => ?_⟩
  · rw [frozen_eq_false.2 hgo]
    exact ⟨_, rfl, decay_toNat s.dt, decay_toNat s.st, rfl, rfl, by simp [hs], hst, rfl, rfl, rfl, keeps_frameTick s⟩
  · have hfrozen : s.frozen = true := by simp [State.frozen, hwait, hfreeze]
    rw [if_pos hfrozen, slotStart_eq hs]

theorem keeps_poll (keys : Keys) (quit : Bool) (d : Nat) (s : State) :
    Keeps [.keys, .sched] s (poll keys quit d s.slotStart) := by
  rw [poll_eq]
  intro p hp
  cases p with
  | keys | sched => simp at hp
  | memory | regs => exact fun _ => rfl
  | _ => simp [SamePart]

/-- Settles O42: the poll that samples quit, and the poll that does not. -/
theorem pollCopiesKeys : Obligations.PollCopiesKeys := by
  intro s keys quit d rest hst hs
  have hstep : step s = .next (poll keys quit d s.slotStart) := by
    rw [step_act hst hs, slotStart_eq hs]
    rfl
  have hrest : s.slotStart.script = rest := by simp [hs]
  refine ⟨_, hstep, ?_⟩
  cases quit with
  | true => exact ⟨rfl, rfl, hrest, rfl, rfl, rfl, keeps_poll keys true d s⟩
  | false => exact ⟨rfl, hst, hrest, rfl, rfl, rfl, keeps_poll keys false d s⟩

end Sys2Proof.Machine
end

section
/-! PROOFS. Reset, program load and the parked program (R43, R170 to R175, R185). -/

namespace Sys2Proof.Machine

/-- A step at an action of the script, from the state with that action taken off (R158). -/
theorem step_perform {s : State} {act : HostAct} {rest : List HostAct} (hst : s.stopped = false)
    (hs : s.script = act :: rest) : step s = perform act s.slotStart := by
  rw [step_act hst hs, slotStart_eq hs]

/-! ## Program load -/

/-- The state an accepted load leaves: the image in place and the load window closed (R173, R175). -/
def State.loaded (s : State) (image : List Byte) : State :=
  { s with mem := Memory.writeBytes s.params programBase image s.mem, loadOpen := false }

section Loads

variable {s : State} {image : List Byte} {rest : List HostAct}

theorem step_load (hst : s.stopped = false) (hs : s.script = .load image :: rest) : step s = load image s.slotStart :=
  step_perform hst hs

theorem load_accepted (hopen : s.loadOpen = true) (hmin : 1 ≤ image.length) (hmax : image.length ≤ programMax) :
    load image s = .next (s.loaded image) := by
  rw [load, if_pos hopen, if_neg (by omega), if_neg (by omega)]
  rfl

theorem load_empty (hopen : s.loadOpen = true) (h : image.length = 0) : load image s = .next (s.report .programEmpty) := by
  rw [load, if_pos hopen, if_pos h]

theorem load_tooLarge (hopen : s.loadOpen = true) (h : programMax < image.length) :
    load image s = .next (s.report (.programTooLarge image.length)) := by
  rw [load, if_pos hopen, if_neg (by omega), if_pos h]

/-- A step at an admitted image (R173). -/
theorem step_load_accepted (hst : s.stopped = false) (hopen : s.loadOpen = true) (hs : s.script = .load image :: rest)
    (hmin : 1 ≤ image.length) (hmax : image.length ≤ programMax) : step s = .next (s.slotStart.loaded image) :=
  (step_load hst hs).trans (load_accepted (s := s.slotStart) hopen hmin hmax)

end Loads

theorem loaded_readByte_image (s : State) {image : List Byte} {k : Nat} (h : k < image.length) :
    (s.loaded image).readByte (0x200 + k) = image[k] := by
  refine (Memory.read_writeBytes s.params image 0x200 s.mem (0x200 + k)).trans ?_
  rw [if_pos (by omega), Nat.add_sub_cancel_left, List.getElem?_eq_getElem h, Option.getD_some]

theorem loaded_readByte_outside (s : State) {image : List Byte} {a : Nat} (h : a < 0x200 ∨ 0x200 + image.length ≤ a) :
    (s.loaded image).readByte a = s.readByte a :=
  (Memory.read_writeBytes s.params image 0x200 s.mem a).trans (if_neg (by omega))

theorem keeps_loaded (s : State) (image : List Byte) : Keeps [.memory, .sched] s (s.slotStart.loaded image) := by
  intro p hp
  cases p with
  | memory | sched => simp at hp
  | regs => exact fun _ => rfl
  | _ => simp [SamePart, State.loaded]

/-- Settles O45: the image's bytes, the bytes outside it, and the frame of an accepted load. -/
theorem loadPlacesImage : Obligations.LoadPlacesImage := by
  intro s image rest hst hopen hs hmin hmax
  exact ⟨s.slotStart.loaded image, step_load_accepted hst hopen hs hmin hmax, fun _ hk => loaded_readByte_image _ hk,
    fun _ ha => loaded_readByte_outside s.slotStart ha, by simp [State.loaded, hs], hst, rfl, rfl, rfl, keeps_loaded s image⟩

/-- Settles O46: the two lengths out of range. -/
theorem loadRejectsBadImage : Obligations.LoadRejectsBadImage := by
  intro s image rest hst hopen hs
  rw [step_load hst hs, ← slotStart_eq hs]
  exact ⟨load_empty hopen, load_tooLarge hopen⟩

/-! ## The load window -/

/-- Every kind of slot closes the load window (R175). -/
theorem slotEffect_loadOpen {s t : State} (h : SlotEffect s t) : t.loadOpen = false := by
  cases h with
  | instr i t _ _ ht => exact (exec_frame ht).loadOpen
  | unknown | waits | waitEnds => rfl

/-- Settles O47: the accepted load, the slot, and the load with the window closed. -/
theorem loadOnlyOnceBeforeFirstSlot : Obligations.LoadOnlyOnceBeforeFirstSlot := by
  refine ⟨fun s t image rest hst hopen hs hmin hmax h => ?_, fun s t hat h => ?_, fun s image rest hst hclosed hs => ?_⟩
  · cases (step_load_accepted hst hopen hs hmin hmax).symm.trans h
    rfl
  · exact slotEffect_loadOpen (slot_effect ((step_atSlot hat).symm.trans h))
  · rw [step_load hst hs, load_refused_of_closed image (s := s.slotStart) hclosed]

/-! ## The reset action -/

/-- Memory after reset reads as nothing written, with the font of the parameters kept (R172). -/
theorem resetAct_readByte (s : State) (a : Nat) : (resetAct s).readByte a = resetByte s.params a := rfl

/-- What reset leaves alone: the parameters, the oracle and the outputs (R19; log 17). -/
theorem keeps_resetAct (s : State) :
    Keeps [.pc, .index, .stack, .delay, .sound, .run, .regs, .screen, .keys, .memory, .sched] s (resetAct s.slotStart) := by
  intro p hp
  cases p with
  | params | draws | events => rfl
  | display => exact ⟨rfl, rfl⟩
  | _ => simp at hp

/-- Settles O48: the parts of `State.reset`, with memory read through the parameters that are kept. -/
theorem resetActionReinitializes : Obligations.ResetActionReinitializes := by
  intro s rest hst hs
  exact ⟨resetAct s.slotStart, step_perform hst hs, rfl, rfl, rfl, rfl, rfl, rfl, reset_reg,
    fun k hk => by simp [resetAct, State.reset, hk], Frame.get_clear, reset_keyDown, rfl, rfl,
    fun _ hk => resetByte_font s.params hk, fun _ ha => resetByte_zero s.params ha, by simp [resetAct, hs], rfl, rfl,
    keeps_resetAct s⟩

/-! ## The parked program -/

/-- Below 0xFFE the fetch and the advance have nothing to report (R151). -/
theorem executing_eq_of_lt {s : State} (h : s.pc.toNat < 0xFFE) :
    s.executing = s.openSlot.setPc ((s.pc.toNat + 2) % 0x1000) := by
  rw [State.executing, oobReport_inRange (by omega), oobReport_inRange (by omega)]
  simp [State.openSlot, State.setPc]

theorem setPc_eq_self {s : State} {e : Nat} (h : s.pc.toNat = e) : s.setPc e = s := by
  rw [State.setPc, ← h, BitVec.ofNat_toNat, BitVec.setWidth_eq]

/-- The slot of a jump to its own address leaves the opened slot (R104, R185). -/
theorem step_parked {s : State} {p : Addr12} (hat : s.atSlot) (h : s.parked p) (hp : p.toNat < 0xFFE) :
    step s = .next s.slotStart.openSlot := by
  obtain ⟨hr, hpc, hd⟩ := h
  have hf : s.fetchOk := ⟨by omega, .inl (by omega), .inl (by omega)⟩
  have hjump : s.slotStart.executing.setPc p.toNat = s.slotStart.openSlot := by
    rw [executing_eq_of_lt (s := s.slotStart) (hpc ▸ hp)]
    exact setPc_eq_self (s := s.slotStart.openSlot) hpc
  rw [step_running hat hr hf, hd, execute, exec_jp, hjump]
  rfl

/-- Settles O50. -/
theorem parkedSlotChangesNothing : Obligations.ParkedSlotChangesNothing :=
  fun s _ hat h hp =>
    ⟨s.slotStart.openSlot, step_parked hat h hp, h, slotTaken_of_sched hat (by simp [SamePart]), keeps_openSlot s⟩

end Sys2Proof.Machine
end
